-- ==== Sys2Proof/Word.lean ====
section
/-! DEFINITION. The machine's two word widths (00_scope.md R7). -/

namespace Sys2Proof

/-- A byte: a register, a bus datum (R7). -/
abbrev Byte := BitVec 8

/-- A 16-bit address or program counter value (R7). -/
abbrev Word := BitVec 16

end Sys2Proof
end

