-- ==== Sys2Proof/Machine/Bits.lean ====
section
/-! DEFINITION. The bit fields and fixed addresses of 00_scope.md R8 and section 5. -/

namespace Sys2Proof.Machine

/-- The low byte of a 16-bit value, `v[7:0]`. -/
def lo8 (w : Word) : Byte := w.setWidth 8

/-- The high byte of a 16-bit value, `v[15:8]`. -/
def hi8 (w : Word) : Byte := (w >>> 8).setWidth 8

/-- `{h, l}`: the 16-bit value `h * 256 + l` (00_scope.md section 5). -/
def word (h l : Byte) : Word := h ++ l

/-- `zext_16`. -/
def zext (b : Byte) : Word := b.setWidth 16

/-- `sext_8`, as a 16-bit two's-complement value. -/
def sext (b : Byte) : Word := b.signExtend 16

/-- A flag as a number. -/
def bit (f : Bool) : Nat := f.toNat

/-- The zero page address `{0x00, b}` (30_encoding.md R303). -/
def zeroPage (b : Byte) : Word := word 0x00 b

/-- The stack address `0x0100 + S` (20_memory.md R210). -/
def stackAddress (s : Byte) : Word := word 0x01 s

/-- The NMI vector (20_memory.md R213). -/
def nmiVector : Word := 0xFFFA

/-- The reset vector (20_memory.md R213). -/
def resetVector : Word := 0xFFFC

/-- The IRQ/BRK vector (20_memory.md R213). -/
def irqVector : Word := 0xFFFE

end Sys2Proof.Machine
end

