-- ==== Sys2Proof/Config.lean ====
section
/-! DEFINITION. What is fixed for one Machine: the parameters of 00_scope.md R9 that are not state of
their own, and the behaviour of the devices the spec leaves to the host. -/

namespace Sys2Proof

/-- `ILLEGAL_OPCODE_POLICY` (00_scope.md R9; 60_exceptions.md R803, R804). -/
inductive OpcodePolicy where
  | halt
  | substituteNop
  deriving DecidableEq, Repr, Inhabited

/-- The Machine's scalar parameters (00_scope.md R9): the policy, and `RESET_AXY`. -/
structure Params where
  policy : OpcodePolicy
  resetA : Byte
  resetX : Byte
  resetY : Byte
  deriving DecidableEq, Repr

/-- The defaults 00_scope.md R9 gives: `Halt`, and 0x00 for each of A, X, Y. -/
def Params.default : Params := ⟨.halt, 0, 0, 0⟩

/-- What one call of a device does to its own request on an interrupt line (10_state.md R131,
40_cycle_engine.md R433). DEDUCED, log 13: only the call's net effect on the line is kept. -/
inductive LineDrive where
  | keep
  | assert
  | deassert
  deriving DecidableEq, Repr, Inhabited

/-- What one call of an external device leaves: its new state, and what it does to its own two
requests. -/
structure DeviceReply where
  state : List Nat
  nmi   : LineDrive
  irq   : LineDrive
  deriving DecidableEq, Repr, Inhabited

/-- An external device's `read` (20_memory.md R200, R201): the byte it returns and what the read leaves.
The arguments are the device's kind, its state and the local address. An opaque constant: the spec
leaves the contents of `DEVICES` to the host (00_scope.md R9; log 3). -/
opaque Config.deviceRead : Nat → List Nat → Nat → Byte × DeviceReply

/-- An external device's `write` (20_memory.md R202), of a byte at a local address (log 3). -/
opaque Config.deviceWrite : Nat → List Nat → Nat → Byte → DeviceReply

/-- An external device's `tick` (20_memory.md R202; log 3). -/
opaque Config.deviceTick : Nat → List Nat → DeviceReply

end Sys2Proof
end

