-- ==== Sys2Proof/Syntax.lean ====
section
/-! DEFINITION. The instructions: one constructor for each row of spec/opcode_table.json (30_encoding.md
R304). A constructor's name is the row's mnemonic and addressing mode (30_encoding.md R301); `b1` and `b2`
are the operand bytes at the opcode's address + 1 and + 2, as R301 names them. -/

namespace Sys2Proof

/-- The 151 documented instructions of the NMOS 6502 (00_scope.md R2). -/
inductive Instr where
  -- LDA, R501
  | ldaImm (b1 : Byte)
  | ldaZp (b1 : Byte)
  | ldaZpx (b1 : Byte)
  | ldaAbs (b1 b2 : Byte)
  | ldaAbsx (b1 b2 : Byte)
  | ldaAbsy (b1 b2 : Byte)
  | ldaIzx (b1 : Byte)
  | ldaIzy (b1 : Byte)
  -- LDX, R502
  | ldxImm (b1 : Byte)
  | ldxZp (b1 : Byte)
  | ldxZpy (b1 : Byte)
  | ldxAbs (b1 b2 : Byte)
  | ldxAbsy (b1 b2 : Byte)
  -- LDY, R503
  | ldyImm (b1 : Byte)
  | ldyZp (b1 : Byte)
  | ldyZpx (b1 : Byte)
  | ldyAbs (b1 b2 : Byte)
  | ldyAbsx (b1 b2 : Byte)
  -- STA, R504
  | staZp (b1 : Byte)
  | staZpx (b1 : Byte)
  | staAbs (b1 b2 : Byte)
  | staAbsx (b1 b2 : Byte)
  | staAbsy (b1 b2 : Byte)
  | staIzx (b1 : Byte)
  | staIzy (b1 : Byte)
  -- STX, R505
  | stxZp (b1 : Byte)
  | stxZpy (b1 : Byte)
  | stxAbs (b1 b2 : Byte)
  -- STY, R506
  | styZp (b1 : Byte)
  | styZpx (b1 : Byte)
  | styAbs (b1 b2 : Byte)
  -- TAX, R507
  | tax
  -- TAY, R508
  | tay
  -- TSX, R509
  | tsx
  -- TXA, R510
  | txa
  -- TXS, R511
  | txs
  -- TYA, R512
  | tya
  -- ADC, R551
  | adcImm (b1 : Byte)
  | adcZp (b1 : Byte)
  | adcZpx (b1 : Byte)
  | adcAbs (b1 b2 : Byte)
  | adcAbsx (b1 b2 : Byte)
  | adcAbsy (b1 b2 : Byte)
  | adcIzx (b1 : Byte)
  | adcIzy (b1 : Byte)
  -- SBC, R553
  | sbcImm (b1 : Byte)
  | sbcZp (b1 : Byte)
  | sbcZpx (b1 : Byte)
  | sbcAbs (b1 b2 : Byte)
  | sbcAbsx (b1 b2 : Byte)
  | sbcAbsy (b1 b2 : Byte)
  | sbcIzx (b1 : Byte)
  | sbcIzy (b1 : Byte)
  -- CMP, R556
  | cmpImm (b1 : Byte)
  | cmpZp (b1 : Byte)
  | cmpZpx (b1 : Byte)
  | cmpAbs (b1 b2 : Byte)
  | cmpAbsx (b1 b2 : Byte)
  | cmpAbsy (b1 b2 : Byte)
  | cmpIzx (b1 : Byte)
  | cmpIzy (b1 : Byte)
  -- CPX, R557
  | cpxImm (b1 : Byte)
  | cpxZp (b1 : Byte)
  | cpxAbs (b1 b2 : Byte)
  -- CPY, R558
  | cpyImm (b1 : Byte)
  | cpyZp (b1 : Byte)
  | cpyAbs (b1 b2 : Byte)
  -- INC, R559
  | incZp (b1 : Byte)
  | incZpx (b1 : Byte)
  | incAbs (b1 b2 : Byte)
  | incAbsx (b1 b2 : Byte)
  -- DEC, R560
  | decZp (b1 : Byte)
  | decZpx (b1 : Byte)
  | decAbs (b1 b2 : Byte)
  | decAbsx (b1 b2 : Byte)
  -- INX, R561
  | inx
  -- INY, R562
  | iny
  -- DEX, R563
  | dex
  -- DEY, R564
  | dey
  -- AND, R600
  | andImm (b1 : Byte)
  | andZp (b1 : Byte)
  | andZpx (b1 : Byte)
  | andAbs (b1 b2 : Byte)
  | andAbsx (b1 b2 : Byte)
  | andAbsy (b1 b2 : Byte)
  | andIzx (b1 : Byte)
  | andIzy (b1 : Byte)
  -- ORA, R601
  | oraImm (b1 : Byte)
  | oraZp (b1 : Byte)
  | oraZpx (b1 : Byte)
  | oraAbs (b1 b2 : Byte)
  | oraAbsx (b1 b2 : Byte)
  | oraAbsy (b1 b2 : Byte)
  | oraIzx (b1 : Byte)
  | oraIzy (b1 : Byte)
  -- EOR, R602
  | eorImm (b1 : Byte)
  | eorZp (b1 : Byte)
  | eorZpx (b1 : Byte)
  | eorAbs (b1 b2 : Byte)
  | eorAbsx (b1 b2 : Byte)
  | eorAbsy (b1 b2 : Byte)
  | eorIzx (b1 : Byte)
  | eorIzy (b1 : Byte)
  -- BIT, R603
  | bitZp (b1 : Byte)
  | bitAbs (b1 b2 : Byte)
  -- ASL, R604
  | aslAcc
  | aslZp (b1 : Byte)
  | aslZpx (b1 : Byte)
  | aslAbs (b1 b2 : Byte)
  | aslAbsx (b1 b2 : Byte)
  -- LSR, R605
  | lsrAcc
  | lsrZp (b1 : Byte)
  | lsrZpx (b1 : Byte)
  | lsrAbs (b1 b2 : Byte)
  | lsrAbsx (b1 b2 : Byte)
  -- ROL, R606
  | rolAcc
  | rolZp (b1 : Byte)
  | rolZpx (b1 : Byte)
  | rolAbs (b1 b2 : Byte)
  | rolAbsx (b1 b2 : Byte)
  -- ROR, R607
  | rorAcc
  | rorZp (b1 : Byte)
  | rorZpx (b1 : Byte)
  | rorAbs (b1 b2 : Byte)
  | rorAbsx (b1 b2 : Byte)
  -- BPL, R651
  | bplRel (b1 : Byte)
  -- BMI, R652
  | bmiRel (b1 : Byte)
  -- BVC, R653
  | bvcRel (b1 : Byte)
  -- BVS, R654
  | bvsRel (b1 : Byte)
  -- BCC, R655
  | bccRel (b1 : Byte)
  -- BCS, R656
  | bcsRel (b1 : Byte)
  -- BNE, R657
  | bneRel (b1 : Byte)
  -- BEQ, R658
  | beqRel (b1 : Byte)
  -- JMP, R659
  | jmpAbs (b1 b2 : Byte)
  | jmpInd (b1 b2 : Byte)
  -- JSR, R661
  | jsrAbs (b1 b2 : Byte)
  -- RTS, R662
  | rts
  -- BRK, R664
  | brk
  -- RTI, R665
  | rti
  -- PHA, R700
  | pha
  -- PHP, R701
  | php
  -- PLA, R702
  | pla
  -- PLP, R703
  | plp
  -- CLC, R704
  | clc
  -- SEC, R705
  | sec
  -- CLD, R706
  | cld
  -- SED, R707
  | sed
  -- CLI, R708
  | cli
  -- SEI, R709
  | sei
  -- CLV, R710
  | clv
  -- NOP, R711
  | nop
  deriving DecidableEq, Repr

end Sys2Proof
end

