-- ==== Sys2Proof/WellFormed.lean ====
section
/-! DEFINITION. The checks on the terms the host hands the machine: instructions, and the ranges of
`attach`. -/

namespace Sys2Proof

/-- Every instruction term is well-formed: 30_encoding.md R307, every byte is a legal immediate, address
byte or offset, and the constructor fixes the number of operand bytes. -/
def Instr.wf (_ : Instr) : Bool := true

/-- The argument `range` of `attach`, `(base, length, offset)` (20_memory.md R203). -/
structure Range where
  base   : Word
  length : Nat
  offset : Word
  deriving DecidableEq, Repr

/-- A range is not empty (20_memory.md R203, `length = 0` is refused). -/
def Range.nonempty (r : Range) : Bool := decide (0 < r.length)

/-- A range ends inside the address space (20_memory.md R203, `base + length > 0x10000` is refused). -/
def Range.fitsSpace (r : Range) : Bool := decide (r.base.toNat + r.length ≤ 0x10000)

/-- A range ends inside a local address space (20_memory.md R203, `offset + length > 0x10000`). -/
def Range.fitsLocal (r : Range) : Bool := decide (r.offset.toNat + r.length ≤ 0x10000)

/-- The three validity checks of 20_memory.md R203. -/
def Range.wf (r : Range) : Bool := r.nonempty && r.fitsSpace && r.fitsLocal

end Sys2Proof
end

