-- ==== Sys2Proof/Machine/State.lean ====
section
/-! DEFINITION. The whole state of one Machine (10_state.md), as plain data; the reasons a step or a host
operation can stop; and the state after reset. -/

namespace Sys2Proof.Machine

/-- The bytes of a RAM or ROM, by local address: in canonical form (`Memory.wf`), addresses strictly
rising, no entry equal to what an unlisted address reads as. -/
abbrev Memory := List Host.Cell

/-- What a local address not listed in a memory reads as. DESIGN CHOICE, log 2: the spec gives a RAM no
initial contents (20_memory.md R208). -/
def Memory.unlisted : Byte := 0x00

/-- A Bus Device (20_memory.md R200), as a variant: the spec's two reference devices, and any other, whose
behaviour is `Config.deviceRead`, `deviceWrite` and `deviceTick` at its kind (log 3). `size` is the length
of its declared address range, local addresses 0 to `size` - 1 (log 22). -/
inductive Device where
  /-- Reference RAM (R208). -/
  | ram (size : Nat) (cells : Memory)
  /-- Reference ROM (R209). -/
  | rom (size : Nat) (image : Memory)
  /-- Any other device, with its opaque state (10_state.md R143). -/
  | other (kind : Nat) (size : Nat) (st : List Nat)
  deriving DecidableEq, Repr

/-- An Address Map entry (10_state.md R141). `device` is the place of its device in the tick list. -/
structure MapEntry where
  range  : Range
  device : Nat
  deriving DecidableEq, Repr

/-- An interrupt line: the set of its asserting sources (10_state.md R131). A device source is its place
in the tick list; the list is strictly rising (`Line.wf`). -/
structure Line where
  host    : Bool
  devices : List Nat
  deriving DecidableEq, Repr

/-- A line with no asserting source (10_state.md R132, at construction). -/
def Line.idle : Line := ⟨false, []⟩

/-- The two interrupt lines (10_state.md R130). -/
structure Lines where
  nmi : Line
  irq : Line
  deriving DecidableEq, Repr

/-- Both lines deasserted. -/
def Lines.idle : Lines := ⟨.idle, .idle⟩

/-- What the CPU shares with the devices: the Address Map (10_state.md R141), the devices in tick order
(R142, R143) and the interrupt lines (R130). -/
structure Bus where
  map     : List MapEntry
  devices : List Device
  lines   : Lines
  deriving DecidableEq, Repr

/-- The CPU register file: A, X, Y, S, PC and the six stored flags (10_state.md R100, R110). -/
structure Regs where
  a  : Byte
  x  : Byte
  y  : Byte
  s  : Byte
  pc : Word
  n  : Bool
  v  : Bool
  d  : Bool
  i  : Bool
  z  : Bool
  c  : Bool
  deriving DecidableEq, Repr

/-- The kind of an interrupt service (10_state.md R123), and the name of its line. -/
inductive ServiceKind where
  | nmi
  | irq
  deriving DecidableEq, Repr

/-- The latch IR: an opcode, or a service kind (10_state.md R121, R123). -/
inductive Ir where
  | opcode (op : Byte)
  | service (kind : ServiceKind)
  deriving DecidableEq, Repr

/-- The sequence latches (10_state.md R121). -/
structure Latches where
  ir    : Ir
  adl   : Byte
  adh   : Byte
  bal   : Byte
  dl    : Byte
  cross : Bool
  deriving DecidableEq, Repr

/-- A sequence under way: the cycles done (10_state.md R120), the latches, and what a fault restores
(60_exceptions.md R806; log 7). -/
structure Sequence where
  done         : Nat
  latch        : Latches
  startRegs    : Regs
  startNmiPrev : Bool
  deriving DecidableEq, Repr

/-- The sequencer phase (10_state.md R120). At a boundary there are no latches (R121; log 4). -/
inductive Sequencer where
  | boundary
  | inSequence (q : Sequence)
  deriving DecidableEq, Repr

/-- Read or write. -/
inductive Access where
  | read
  | write
  deriving DecidableEq, Repr

/-- One CPU bus cycle as it is observed (00_scope.md R4(a)). -/
structure BusCycle where
  access  : Access
  address : Word
  value   : Byte
  deriving DecidableEq, Repr

/-- The kinds of CPU fault with their information (60_exceptions.md R801, R802). -/
inductive FaultKind where
  | unmappedAccess (address : Word) (access : Access)
  | unimplementedOpcode (opcode : Byte) (fetchedAt : Word)
  deriving DecidableEq, Repr

/-- The fault report (10_state.md R145, 60_exceptions.md R806). -/
structure FaultReport where
  kind         : FaultKind
  pc           : Word
  cycle        : Nat
  cyclesInStep : Nat
  deriving DecidableEq, Repr

/-- The Machine phase (10_state.md R144). The fault report is recorded exactly while `Halted`
(60_exceptions.md R806; log 5). -/
inductive Phase where
  | configuring
  | running
  | halted (report : FaultReport)
  deriving DecidableEq, Repr

/-- A report of an unimplemented opcode that was run as a no-op (60_exceptions.md R804). -/
structure OpcodeReport where
  opcode    : Byte
  fetchedAt : Word
  deriving DecidableEq, Repr

/-- What `step()` returned: the cycle count and the reports (40_cycle_engine.md R420, R424). -/
structure StepResult where
  cycles  : Nat
  reports : List OpcodeReport
  deriving DecidableEq, Repr

/-- One Machine. `trace` is the bus cycles of the step under way or last taken, oldest first (00_scope.md
R4(a)), and `result` what that step returned; both are the model's record of an observable (log 8). -/
structure State where
  regs    : Regs
  nmiPrev : Bool
  seq     : Sequencer
  bus     : Bus
  cycles  : Nat
  phase   : Phase
  params  : Params
  trace   : List BusCycle
  result  : StepResult
  deriving DecidableEq, Repr

/-- Why a step, or a host operation, answered `Err`. The codes are `Fault.code` (60_exceptions.md
R800-R802). `after` is the Machine as the fault leaves it (R806; log 5). -/
inductive Fault where
  /-- Raised by `attach` of an invalid or overlapping range (60_exceptions.md R800), with the overlapped
  entry's range if there is one; never by a step. The machine is unchanged. Safe. -/
  | rangeConflict (new : Range) (overlapping : Option Range)
  /-- Raised by any CPU bus cycle at an address no map entry contains (60_exceptions.md R801), by a host
  map access (R801), and by `reset` (70_reset_and_hazards.md R902). Safe: the spec stops here. -/
  | unmappedAccess (address : Word) (access : Access) (after : State)
  /-- Raised by the decoder at the end of cycle 1, under policy `Halt` (60_exceptions.md R802, R803).
  Safe: the spec stops here. -/
  | unimplementedOpcode (opcode : Byte) (fetchedAt : Word) (after : State)
  deriving DecidableEq, Repr

/-- Why an operation has no transition. A step never answers one of these. -/
inductive Refusal where
  /-- An instruction without a meaning yet, by its mnemonic in spec/opcode_table.json. Safe. -/
  | notModelled (mnemonic : String)
  /-- Raised by `attach` outside phase `Configuring` (20_memory.md R204). Safe. -/
  | notConfiguring
  /-- Raised by a register load or a host map access while `Halted` (40_cycle_engine.md R430). Safe. -/
  | machineHalted
  /-- Raised by `attach` of a range that reaches past the device's declared address range, or of a device
  that does not exist (20_memory.md R202, a contract violation; log 9). Safe. -/
  | contractViolation
  deriving DecidableEq, Repr

/-- What a step, or an instruction's meaning, answers. -/
abbrev StepOutcome := Host.Outcome State Fault Refusal

/-- The machine inside a sequence: `m.seq` is not looked at here, the sequence is `q`. -/
structure Run where
  m : State
  q : Sequence
  deriving DecidableEq, Repr

/-- A part of a sequence: it goes on with a value, or ends at a CPU fault. -/
abbrev M := EStateM FaultKind Run

/-- The Machine right after `reset()` (70_reset_and_hazards.md R900), on the platform of log 1: one
reference RAM of 0x10000 bytes attached at (0x0000, 0x10000, 0), nothing listed in it, so that the reset
vector holds 0x0000. -/
def State.reset : State where
  regs :=
    { a := 0x00, x := 0x00, y := 0x00, s := 0xFD, pc := 0x0000
      n := false, v := false, d := false, i := true, z := false, c := false }
  nmiPrev := false
  seq := .boundary
  bus :=
    { map := [⟨⟨0x0000, 0x10000, 0x0000⟩, 0⟩]
      devices := [.ram 0x10000 []]
      lines := .idle }
  cycles := 0
  phase := .configuring
  params := .default
  trace := []
  result := ⟨0, []⟩

end Sys2Proof.Machine
end

