-- ==== Sys2Proof/Machine/Memory.lean ====
section
/-! DEFINITION. The byte arrays of the reference RAM and ROM (20_memory.md R208, R209), in one canonical
form. -/

namespace Sys2Proof.Machine

/-- The byte at a local address. -/
def Memory.read (m : Memory) (l : Nat) : Byte :=
  match m with
  | [] => Memory.unlisted
  | (k, v) :: rest => if k = l then v else Memory.read rest l

/-- A cell put before a memory, unless it holds what an unlisted address reads as. -/
def Memory.cons (l : Nat) (v : Byte) (m : Memory) : Memory :=
  if v = Memory.unlisted then m else (l, v) :: m

/-- The memory with one byte stored, in canonical form again. -/
def Memory.write (m : Memory) (l : Nat) (v : Byte) : Memory :=
  match m with
  | [] => Memory.cons l v []
  | (k, u) :: rest =>
    if l < k then Memory.cons l v ((k, u) :: rest)
    else if l = k then Memory.cons l v rest
    else (k, u) :: Memory.write rest l v

/-- Canonical from an address on: addresses at least `from`, strictly rising, below `size`, and no entry
equal to what an unlisted address reads as. -/
def Memory.wfFrom (size first : Nat) (m : Memory) : Bool :=
  match m with
  | [] => true
  | (k, v) :: rest =>
    decide (first ≤ k) && decide (k < size) && decide (v ≠ Memory.unlisted) &&
      Memory.wfFrom size (k + 1) rest

/-- The canonical form of the bytes of a device of `size` bytes. -/
def Memory.wf (size : Nat) (m : Memory) : Bool := Memory.wfFrom size 0 m

end Sys2Proof.Machine
end

