-- ==== Sys2Proof/Machine/Bus.lean ====
section
/-! DEFINITION. The Bus Devices, the interrupt lines and the Address Map (20_memory.md, 10_state.md sections
4 and 5). -/

namespace Sys2Proof

/-- Whether an address lies in `[base, base + length)` (20_memory.md R205). -/
def Range.contains (r : Range) (a : Word) : Bool :=
  decide (r.base.toNat ≤ a.toNat) && decide (a.toNat < r.base.toNat + r.length)

/-- The local address `address - base + offset` (20_memory.md R205). -/
def Range.localOf (r : Range) (a : Word) : Nat :=
  a.toNat - r.base.toNat + r.offset.toNat

/-- Whether two ranges share an address (20_memory.md R203). -/
def Range.overlaps (r q : Range) : Bool :=
  decide (r.base.toNat < q.base.toNat + q.length) && decide (q.base.toNat < r.base.toNat + r.length)

namespace Machine

/-! ### Interrupt lines (10_state.md R130, R131) -/

/-- A line is asserted while its set of sources is not empty. -/
def Line.asserted (l : Line) : Bool := l.host || !l.devices.isEmpty

/-- A device's place put into a strictly rising list. -/
def insertPlace (n : Nat) (places : List Nat) : List Nat :=
  match places with
  | [] => [n]
  | k :: rest => if n < k then n :: k :: rest else if n = k then k :: rest else k :: insertPlace n rest

/-- A device adds itself to a line's set, removes itself, or does neither. -/
def Line.drive (l : Line) (n : Nat) (d : LineDrive) : Line :=
  match d with
  | .keep => l
  | .assert => { l with devices := insertPlace n l.devices }
  | .deassert => { l with devices := l.devices.filter (fun k => k != n) }

/-- What a device's reply does to the two lines, as the source at place `n` of the tick list. -/
def Lines.drive (l : Lines) (n : Nat) (r : DeviceReply) : Lines :=
  ⟨l.nmi.drive n r.nmi, l.irq.drive n r.irq⟩

/-- A strictly rising list of places from `first` on and below `bound`. -/
def risingFrom (bound first : Nat) (places : List Nat) : Bool :=
  match places with
  | [] => true
  | k :: rest => decide (first ≤ k) && decide (k < bound) && risingFrom bound (k + 1) rest

/-- A line's set is in canonical form, its device sources among the first `bound` places. -/
def Line.wf (bound : Nat) (l : Line) : Bool := risingFrom bound 0 l.devices

/-! ### Devices (20_memory.md R200-R202, R208, R209) -/

/-- The length of a device's declared address range, which starts at local address 0 (log 22). -/
def Device.size (d : Device) : Nat :=
  match d with
  | .ram size _ => size
  | .rom size _ => size
  | .other _ size _ => size

/-- The bytes of a RAM or ROM are in canonical form, and the size is 1 to 0x10000: R208 says so of the RAM. DESIGN
CHOICE, log 20: the spec bounds the size of a ROM or another device nowhere; the RAM's bound is taken for them. -/
def Device.wf (d : Device) : Bool :=
  match d with
  | .ram size cells => decide (0 < size) && decide (size ≤ 0x10000) && Memory.wf size cells
  | .rom size image => decide (0 < size) && decide (size ≤ 0x10000) && Memory.wf size image
  | .other _ size _ => decide (0 < size) && decide (size ≤ 0x10000)

/-- `read`: the byte a device returns for a local address. -/
def Device.readValue (d : Device) (l : Nat) : Byte :=
  match d with
  | .ram _ cells => Memory.read cells l
  | .rom _ image => Memory.read image l
  | .other kind _ st => (Config.deviceRead kind st l).1

/-- `read`: what it leaves, as the device at place `n`. A RAM or ROM read has no side effect. -/
def Device.afterRead (d : Device) (n : Nat) (l : Nat) (lines : Lines) : Device × Lines :=
  match d with
  | .ram size cells => (.ram size cells, lines)
  | .rom size image => (.rom size image, lines)
  | .other kind size st =>
    let r := (Config.deviceRead kind st l).2
    (.other kind size r.state, lines.drive n r)

/-- `write`: a RAM stores the byte, a ROM ignores it (R209). -/
def Device.afterWrite (d : Device) (n : Nat) (l : Nat) (v : Byte) (lines : Lines) : Device × Lines :=
  match d with
  | .ram size cells => (.ram size (Memory.write cells l v), lines)
  | .rom size image => (.rom size image, lines)
  | .other kind size st =>
    let r := Config.deviceWrite kind st l v
    (.other kind size r.state, lines.drive n r)

/-- `tick`: nothing for a RAM or ROM. -/
def Device.afterTick (d : Device) (n : Nat) (lines : Lines) : Device × Lines :=
  match d with
  | .ram size cells => (.ram size cells, lines)
  | .rom size image => (.rom size image, lines)
  | .other kind size st =>
    let r := Config.deviceTick kind st
    (.other kind size r.state, lines.drive n r)

/-- Every device ticked once, in tick order, the first at place `n` (40_cycle_engine.md R400). -/
def tickFrom (n : Nat) (devices : List Device) (lines : Lines) : List Device × Lines :=
  match devices with
  | [] => ([], lines)
  | d :: rest =>
    let (d, lines) := d.afterTick n lines
    let (rest, lines) := tickFrom (n + 1) rest lines
    (d :: rest, lines)

/-! ### The Address Map (20_memory.md R203-R205) -/

/-- The place and the local address an address resolves to (R205): of the one entry that contains it. None
if no entry does. -/
def Bus.resolve (b : Bus) (a : Word) : Option (Nat × Nat) :=
  match b.map.find? (fun e => e.range.contains a) with
  | some e => if e.device < b.devices.length then some (e.device, e.range.localOf a) else none
  | none => none

/-- Whether the map answers at an address. -/
def Bus.mapped (b : Bus) (a : Word) : Bool := (b.resolve a).isSome

/-- `MapRead` (R205): the byte read, and the bus after it. None is `UnmappedAccess`. -/
def Bus.read (b : Bus) (a : Word) : Option (Byte × Bus) :=
  match b.resolve a with
  | none => none
  | some (n, l) =>
    match b.devices[n]? with
    | none => none
    | some d =>
      let (d', lines) := d.afterRead n l b.lines
      some (d.readValue l, { b with devices := b.devices.set n d', lines := lines })

/-- `MapWrite` (R205): the bus after the write. None is `UnmappedAccess`. -/
def Bus.write (b : Bus) (a : Word) (v : Byte) : Option Bus :=
  match b.resolve a with
  | none => none
  | some (n, l) =>
    match b.devices[n]? with
    | none => none
    | some d =>
      let (d', lines) := d.afterWrite n l v b.lines
      some { b with devices := b.devices.set n d', lines := lines }

/-- The devices' ticks of one clock cycle. -/
def Bus.tick (b : Bus) : Bus :=
  let (devices, lines) := tickFrom 0 b.devices b.lines
  { b with devices := devices, lines := lines }

/-- The byte a RAM or ROM holds at an address, looked at without an access. None where no RAM or ROM
answers. -/
def Bus.peek (b : Bus) (a : Word) : Option Byte :=
  match b.resolve a with
  | none => none
  | some (n, l) =>
    match b.devices[n]? with
    | some (.ram _ cells) => some (Memory.read cells l)
    | some (.rom _ image) => some (Memory.read image l)
    | _ => none

/-- The byte a read of an address would return now, looked at without an access; 0x00 where the map has no
entry. -/
def Bus.glance (b : Bus) (a : Word) : Byte :=
  match b.read a with
  | some (v, _) => v
  | none => 0x00

/-- Two addresses reach one byte of one device, at the same address or through a mirror (20_memory.md
R204). -/
def Bus.sameCell (b : Bus) (a e : Word) : Bool :=
  (b.resolve a).isSome && decide (b.resolve a = b.resolve e)

/-- A byte put into the RAM or ROM cell at an address from outside the machine: no access, no effect on a
device that is neither. -/
def Bus.poke (b : Bus) (a : Word) (v : Byte) : Bus :=
  match b.resolve a with
  | none => b
  | some (n, l) =>
    match b.devices[n]? with
    | some (.ram size cells) => { b with devices := b.devices.set n (.ram size (Memory.write cells l v)) }
    | some (.rom size image) => { b with devices := b.devices.set n (.rom size (Memory.write image l v)) }
    | _ => b

/-! ### Well-formed buses -/

/-- A map entry is valid (R203), names an attached device, and stays in its declared range (R202). -/
def MapEntry.wf (devices : List Device) (e : MapEntry) : Bool :=
  e.range.wf &&
    match devices[e.device]? with
    | some d => decide (e.range.offset.toNat + e.range.length ≤ d.size)
    | none => false

/-- No two entries of a list overlap (10_state.md R141). -/
def disjointEntries (map : List MapEntry) : Bool :=
  match map with
  | [] => true
  | e :: rest => rest.all (fun f => !e.range.overlaps f.range) && disjointEntries rest

/-- What every bus that attaches and steps make satisfies. -/
def Bus.wf (b : Bus) : Bool :=
  b.map.all (MapEntry.wf b.devices) && disjointEntries b.map && b.devices.all Device.wf &&
    Line.wf b.devices.length b.lines.nmi && Line.wf b.devices.length b.lines.irq

end Machine

end Sys2Proof
end

