-- ==== Sys2Proof/Machine/Ops.lean ====
section
/-! DEFINITION. The named operations every sequence is made of: clock cycles, registers and latches, the
stack, taking an exception and returning from one, and the start and the end of a sequence. -/

namespace Sys2Proof.Machine

/-! ### Clock cycles (40_cycle_engine.md R400, R401, R405) -/

/-- The first clock tick moves `Configuring` to `Running` (R400; 10_state.md R144). -/
def Phase.ticked (p : Phase) : Phase :=
  match p with
  | .configuring => .running
  | .running => .running
  | .halted r => .halted r

/-- The start of a tick: the counter, the phase, and the sequencer's own count (R400, R407). -/
def Run.clock (r : Run) : Run :=
  { m := { r.m with cycles := r.m.cycles + 1, phase := r.m.phase.ticked }
    q := { r.q with done := r.q.done + 1 } }

/-- The CPU's access of a tick: the bus after it, and the cycle as it is observed. -/
def Run.accessed (r : Run) (b : Bus) (c : BusCycle) : Run :=
  { r with m := { r.m with bus := b, trace := r.m.trace ++ [c] } }

/-- The devices' ticks, after the CPU's access (R400). -/
def tickDevices : M Unit := fun r =>
  .ok () { r with m := { r.m with bus := r.m.bus.tick } }

/-- The CPU's half of a read cycle: the clock and the one bus access (R405). A fault ends the tick at
once: no device is called and none ticks (R401). -/
def readAccess (a : Word) : M Byte := fun r =>
  match r.m.bus.read a with
  | some (v, b) => .ok v (r.clock.accessed b ⟨.read, a, v⟩)
  | none => .error (.unmappedAccess a .read) r.clock

/-- The CPU's half of a write cycle. -/
def writeAccess (a : Word) (v : Byte) : M Unit := fun r =>
  match r.m.bus.write a v with
  | some b => .ok () (r.clock.accessed b ⟨.write, a, v⟩)
  | none => .error (.unmappedAccess a .write) r.clock

/-- One whole read cycle, `rd(a)`. -/
def readCycle (a : Word) : M Byte := do
  let v ← readAccess a
  tickDevices
  return v

/-- One whole write cycle, `wr(a, v)`. -/
def writeCycle (a : Word) (v : Byte) : M Unit := do
  writeAccess a v
  tickDevices

/-- `rd(a) -> discard`: a full access whose value the sequence does not use (R408). -/
def dummyRead (a : Word) : M Unit := do
  let _ ← readCycle a

/-! ### Registers and latches -/

/-- The register file. -/
def getRegs : M Regs := fun r => .ok r.m.regs r

/-- A change of the register file. -/
def setRegs (f : Regs → Regs) : M Unit := fun r =>
  .ok () { r with m := { r.m with regs := f r.m.regs } }

/-- `PC <- target`. -/
def setPc (target : Word) : M Unit := setRegs (fun g => { g with pc := target })

/-- `PC <- u16(PC + 1)` (10_state.md R105). -/
def incPc : M Unit := setRegs (fun g => { g with pc := g.pc + 1 })

/-- The sequence latches (10_state.md R121). -/
def getLatches : M Latches := fun r => .ok r.q.latch r

/-- A change of the latches. -/
def setLatches (f : Latches → Latches) : M Unit := fun r =>
  .ok () { r with q := { r.q with latch := f r.q.latch } }

/-- IR is loaded. -/
def latchIr (i : Ir) : M Unit := setLatches (fun l => { l with ir := i })

/-- ADL is loaded. -/
def latchAdl (b : Byte) : M Unit := setLatches (fun l => { l with adl := b })

/-- ADH is loaded. -/
def latchAdh (b : Byte) : M Unit := setLatches (fun l => { l with adh := b })

/-- BAL is loaded. -/
def latchBal (b : Byte) : M Unit := setLatches (fun l => { l with bal := b })

/-- DL is loaded. -/
def latchDl (b : Byte) : M Unit := setLatches (fun l => { l with dl := b })

/-- CROSS is set or cleared. -/
def latchCross (c : Bool) : M Unit := setLatches (fun l => { l with cross := c })

/-! ### The status byte (10_state.md R111, R112) -/

/-- `P_byte(b)`: N, V, 1, b, D, I, Z, C, from bit 7 down (R111). -/
def Regs.pByte (g : Regs) (b : Bool) : Byte :=
  BitVec.ofNat 8
    (128 * bit g.n + 64 * bit g.v + 32 + 16 * bit b + 8 * bit g.d + 4 * bit g.i + 2 * bit g.z + bit g.c)

/-- Loading P from a byte: bits 5 and 4 are ignored (R112). -/
def Regs.loadP (g : Regs) (v : Byte) : Regs :=
  { g with
    n := v.getLsbD 7, v := v.getLsbD 6, d := v.getLsbD 3
    i := v.getLsbD 2, z := v.getLsbD 1, c := v.getLsbD 0 }

/-! ### The stack (20_memory.md R210, R211) -/

/-- `push(v)`: the store, then S - 1, modulo 256. -/
def push (v : Byte) : M Unit := do
  let g ← getRegs
  writeCycle (stackAddress g.s) v
  setRegs (fun g => { g with s := g.s - 1 })

/-- The discarded stack read with which a pull begins, then S + 1, modulo 256 (46_stack_flags_misc.md
R702 cycle 3). -/
def beginPull : M Unit := do
  let g ← getRegs
  dummyRead (stackAddress g.s)
  setRegs (fun g => { g with s := g.s + 1 })

/-- The read of a pull: the byte at `0x0100 + S`. -/
def readStack : M Byte := do
  let g ← getRegs
  readCycle (stackAddress g.s)

/-- The read of a pull that another follows: S + 1 after it (45_control.md R662 cycle 4). -/
def readStackInc : M Byte := do
  let v ← readStack
  setRegs (fun g => { g with s := g.s + 1 })
  return v

/-! ### Taking an exception, and returning from one -/

/-- Interrupt entry: PC is pushed, high byte first, then the status byte with bit 4 as given; I is set; PC
is loaded from the vector (60_exceptions.md R821 cycles 3 to 7, R822; 45_control.md R664 cycles 3 to 7). -/
def interruptEntry (b : Bool) (vector : Word) : M Unit := do
  let g ← getRegs
  push (hi8 g.pc)
  push (lo8 g.pc)
  push (g.pByte b)
  setRegs (fun g => { g with i := true })
  let adl ← readCycle vector
  latchAdl adl
  let adh ← readCycle (vector + 1)
  latchAdh adh
  let l ← getLatches
  setPc (word l.adh l.adl)

/-- Return from interrupt: the status byte, then PC, in the reverse of the entry order, with no increment
(60_exceptions.md R824; 45_control.md R665 cycles 3 to 6). -/
def interruptReturn : M Unit := do
  beginPull
  let p ← readStackInc
  setRegs (fun g => g.loadP p)
  let pcl ← readStackInc
  setRegs (fun g => { g with pc := word (hi8 g.pc) pcl })
  let pch ← readStack
  setRegs (fun g => { g with pc := word pch (lo8 g.pc) })

/-! ### The start and the end of a sequence (40_cycle_engine.md R406, R407, R420) -/

/-- The latches at the start of a sequence: unspecified, and never read before written (10_state.md R121;
log 4). -/
def Latches.fresh : Latches := ⟨.opcode 0x00, 0x00, 0x00, 0x00, 0x00, false⟩

/-- The machine with a sequence under way: the one it is in, or one that starts here, with nothing done
and nothing observed yet. -/
def State.enter (s : State) : Run :=
  match s.seq with
  | .inSequence q => ⟨s, q⟩
  | .boundary => ⟨{ s with trace := [], result := ⟨0, []⟩ }, ⟨0, .fresh, s.regs, s.nmiPrev⟩⟩

/-- The machine between two cycles of a sequence. -/
def Run.leave (r : Run) : State := { r.m with seq := .inSequence r.q }

/-- The machine at the boundary after the last cycle (R406), with what `step()` returns (R420). -/
def Run.finish (r : Run) : State :=
  { r.m with seq := .boundary, result := { r.m.result with cycles := r.q.done } }

/-- What a CPU fault does (60_exceptions.md R806): registers, flags and nmi_prev as at the start of the
step, the report, `Halted`. Bus effects of earlier cycles and `cycles` stay. -/
def Run.halt (r : Run) (k : FaultKind) : State :=
  { r.m with
    regs := r.q.startRegs
    nmiPrev := r.q.startNmiPrev
    seq := .boundary
    phase := .halted ⟨k, r.q.startRegs.pc, r.m.cycles, r.q.done⟩
    result := ⟨r.q.done, []⟩ }

/-- A fault as it is answered, with the machine it leaves. -/
def FaultKind.toFault (k : FaultKind) (after : State) : Fault :=
  match k with
  | .unmappedAccess a acc => .unmappedAccess a acc after
  | .unimplementedOpcode op pc => .unimplementedOpcode op pc after

/-- The rest of a sequence run to its end from inside it. -/
def runFrom (seq : M Unit) (r : Run) : StepOutcome :=
  match seq r with
  | .ok _ r => .next r.finish
  | .error k r => .fault (k.toFault (r.halt k))

/-- The rest of a sequence run to its end. -/
def runSeq (seq : M Unit) (s : State) : StepOutcome := runFrom seq s.enter

end Sys2Proof.Machine
end

