-- ==== Sys2Proof/Machine/Flags.lean ====
section
/-! DEFINITION. The flag computations: N and Z, addition and subtraction in both modes, comparison, bit
test, increments, shifts and rotates (10_state.md R114; 43_arithmetic.md; 44_logic_shift.md). -/

namespace Sys2Proof.Machine

/-- The N/Z rule for a result byte (10_state.md R114). -/
def Regs.nz (g : Regs) (r : Byte) : Regs := { g with z := r == 0, n := r.getLsbD 7 }

/-- ADC with D = 0 (43_arithmetic.md R551). -/
def Regs.adcBinary (g : Regs) (m : Byte) : Regs :=
  let t := g.a.toNat + m.toNat + bit g.c
  let r := BitVec.ofNat 8 t
  { g with
    a := r
    c := decide (t > 0xFF)
    v := ((g.a ^^^ r) &&& (m ^^^ r)).getLsbD 7
    z := r == 0
    n := r.getLsbD 7 }

/-- The low digit of a decimal ADC, adjusted, with its carry into the high digit (R552). -/
def adcLowDigit (a m : Byte) (c : Bool) : Nat :=
  let al := (a &&& 0x0F).toNat + (m &&& 0x0F).toNat + bit c
  if al ≥ 0x0A then (al + 0x06) % 16 + 0x10 else al

/-- The sum of a decimal ADC before the high-digit adjust, 0 to 0x1EF (R552). -/
def adcDecimalSum (a m : Byte) (c : Bool) : Nat :=
  (a &&& 0xF0).toNat + (m &&& 0xF0).toNat + adcLowDigit a m c

/-- ADC with D = 1, NMOS behaviour, for every input (R552). -/
def Regs.adcDecimal (g : Regs) (m : Byte) : Regs :=
  let t := adcDecimalSum g.a m g.c
  let t' := if t ≥ 0xA0 then t + 0x60 else t
  { g with
    z := BitVec.ofNat 8 (g.a.toNat + m.toNat + bit g.c) == 0
    n := t.testBit 7
    v := (g.a ^^^ BitVec.ofNat 8 t).getLsbD 7 && !(g.a ^^^ m).getLsbD 7
    c := decide (t' ≥ 0x100)
    a := BitVec.ofNat 8 t' }

/-- ADC (R551, R552). -/
def Regs.adc (m : Byte) (g : Regs) : Regs := if g.d then g.adcDecimal m else g.adcBinary m

/-- The binary difference of SBC, -0x100 to 0xFF (R553). -/
def sbcDifference (a m : Byte) (c : Bool) : Int := (a.toNat : Int) - m.toNat - (1 - bit c)

/-- The low digit of a decimal SBC, adjusted (R554). -/
def sbcLowDigit (a m : Byte) (c : Bool) : Int :=
  let al : Int := ((a &&& 0x0F).toNat : Int) - (m &&& 0x0F).toNat + bit c - 1
  if al < 0 then (al - 0x06) % 16 - 0x10 else al

/-- DecimalSub, the accumulator result of SBC with D = 1, for every input (R554). -/
def decimalSub (a m : Byte) (c : Bool) : Byte :=
  let t : Int := ((a &&& 0xF0).toNat : Int) - (m &&& 0xF0).toNat + sbcLowDigit a m c
  BitVec.ofInt 8 (if t < 0 then t - 0x60 else t)

/-- SBC: the flags from the binary difference in both modes (R553). -/
def Regs.sbc (m : Byte) (g : Regs) : Regs :=
  let t := sbcDifference g.a m g.c
  let r := BitVec.ofInt 8 t
  { g with
    c := decide (t ≥ 0)
    v := ((g.a ^^^ m) &&& (g.a ^^^ r)).getLsbD 7
    z := r == 0
    n := r.getLsbD 7
    a := if g.d then decimalSub g.a m g.c else r }

/-- Compare of a register value with a byte (R555). -/
def Regs.compare (g : Regs) (r m : Byte) : Regs :=
  { g with c := decide (r.toNat ≥ m.toNat), z := r == m, n := (r - m).getLsbD 7 }

/-- BIT: Z from the and, N and V from the operand (44_logic_shift.md R603). -/
def Regs.bitTest (m : Byte) (g : Regs) : Regs :=
  { g with z := (g.a &&& m) == 0, n := m.getLsbD 7, v := m.getLsbD 6 }

/-- INC: the result, and the registers with its flags (43_arithmetic.md R559). -/
def incByte (v : Byte) (g : Regs) : Byte × Regs := (v + 1, g.nz (v + 1))

/-- DEC (43_arithmetic.md R560). -/
def decByte (v : Byte) (g : Regs) : Byte × Regs := (v - 1, g.nz (v - 1))

/-- ASL (44_logic_shift.md R604). -/
def aslByte (v : Byte) (g : Regs) : Byte × Regs :=
  let r := v <<< 1
  (r, { g.nz r with c := v.getLsbD 7 })

/-- LSR (44_logic_shift.md R605). -/
def lsrByte (v : Byte) (g : Regs) : Byte × Regs :=
  let r := v >>> 1
  (r, { g.nz r with c := v.getLsbD 0 })

/-- ROL (44_logic_shift.md R606): C_old enters at bit 0. -/
def rolByte (v : Byte) (g : Regs) : Byte × Regs :=
  let r := BitVec.ofNat 8 (v.toNat * 2 + bit g.c)
  (r, { g.nz r with c := v.getLsbD 7 })

/-- ROR (44_logic_shift.md R607): C_old enters at bit 7. -/
def rorByte (v : Byte) (g : Regs) : Byte × Regs :=
  let r := BitVec.ofNat 8 (v.toNat / 2 + 0x80 * bit g.c)
  (r, { g.nz r with c := v.getLsbD 0 })

end Sys2Proof.Machine
end

