-- ==== Sys2Proof/Machine/Operands.lean ====
section
/-! DEFINITION. The addressing-mode pipeline (41_addressing_pipeline.md): the cycles of each mode after the
operand bytes are fetched, and the access classes of R450. -/

namespace Sys2Proof.Machine

/-! ### Effective addresses

Each of these performs the mode's cycles between the last operand fetch and the operand access, and answers
the effective address. -/

/-- Zero page (R454, R456). -/
def eaZp (b1 : Byte) : M Word := do
  latchAdl b1
  let l ← getLatches
  return zeroPage l.adl

/-- Zero page indexed: the unindexed address is read and discarded, the sum wraps in page 0 (R460-R462). -/
def eaZpIndexed (idx : Regs → Byte) (b1 : Byte) : M Word := do
  latchBal b1
  let l ← getLatches
  dummyRead (zeroPage l.bal)
  let g ← getRegs
  return zeroPage (l.bal + idx g)

/-- Zero page,X. -/
def eaZpx (b1 : Byte) : M Word := eaZpIndexed Regs.x b1

/-- Zero page,Y. -/
def eaZpy (b1 : Byte) : M Word := eaZpIndexed Regs.y b1

/-- Absolute (R457, R458). -/
def eaAbs (b1 b2 : Byte) : M Word := do
  latchAdl b1
  latchAdh b2
  let l ← getLatches
  return word l.adh l.adl

/-- When an indexed access reads the address whose high byte is not fixed yet: a class R access only on a
page cross (R465, R475), a class W or M access always (R466, R467, R476). -/
inductive Fixup where
  | onCross
  | always
  deriving DecidableEq, Repr

/-- Whether `ADL + idx` carries into the high byte (R465). -/
def crosses (adl idx : Byte) : Bool := decide (adl.toNat + idx.toNat > 0xFF)

/-- The index added to {ADH, ADL}: the read at {ADH, lo8(ADL + idx)} where the class spends it, and EA =
u16({ADH, ADL} + idx) (R465-R468). -/
def indexed (fix : Fixup) (idx : Byte) : M Word := do
  let l ← getLatches
  latchCross (crosses l.adl idx)
  let k ← getLatches
  if fix = .always ∨ k.cross = true then
    dummyRead (word k.adh (k.adl + idx))
  return word k.adh k.adl + zext idx

/-- Absolute indexed. -/
def eaAbsIndexed (fix : Fixup) (idx : Regs → Byte) (b1 b2 : Byte) : M Word := do
  latchAdl b1
  latchAdh b2
  let g ← getRegs
  indexed fix (idx g)

/-- Absolute,X. -/
def eaAbsx (fix : Fixup) (b1 b2 : Byte) : M Word := eaAbsIndexed fix Regs.x b1 b2

/-- Absolute,Y. -/
def eaAbsy (fix : Fixup) (b1 b2 : Byte) : M Word := eaAbsIndexed fix Regs.y b1 b2

/-- The two reads of a zero page pointer, its second byte wrapping in page 0 (R480). -/
def readPointer (p : Byte) : M Unit := do
  let adl ← readCycle (zeroPage p)
  latchAdl adl
  let adh ← readCycle (zeroPage (p + 1))
  latchAdh adh

/-- (zero page,X) (R470). -/
def eaIzx (b1 : Byte) : M Word := do
  latchBal b1
  let l ← getLatches
  dummyRead (zeroPage l.bal)
  let g ← getRegs
  readPointer (l.bal + g.x)
  let k ← getLatches
  return word k.adh k.adl

/-- (zero page),Y (R475, R476). -/
def eaIzy (fix : Fixup) (b1 : Byte) : M Word := do
  latchBal b1
  let l ← getLatches
  readPointer l.bal
  let g ← getRegs
  indexed fix g.y

/-! ### Access classes (R450, R451) -/

/-- The operation of a class R instruction on DL. -/
def operateOnDl (op : Byte → Regs → Regs) : M Unit := do
  let l ← getLatches
  setRegs (op l.dl)

/-- Class R, immediate: the operand byte is DL, its fetch the last cycle (R453). -/
def readImm (b1 : Byte) (op : Byte → Regs → Regs) : M Unit := do
  latchDl b1
  operateOnDl op

/-- Class R: one read of EA. -/
def readOperand (ea : M Word) (op : Byte → Regs → Regs) : M Unit := do
  let a ← ea
  let v ← readCycle a
  latchDl v
  operateOnDl op

/-- Class W: one write of a register to EA. -/
def writeOperand (ea : M Word) (reg : Regs → Byte) : M Unit := do
  let a ← ea
  let g ← getRegs
  writeCycle a (reg g)

/-- Class M: EA is read, written back unmodified, and written with the result (R455). -/
def modifyOperand (ea : M Word) (op : Byte → Regs → Byte × Regs) : M Unit := do
  let a ← ea
  let v ← readCycle a
  latchDl v
  let l ← getLatches
  writeCycle a l.dl
  let g ← getRegs
  writeCycle a (op l.dl g).1
  setRegs (fun g => (op l.dl g).2)

/-- Class I: the byte after the opcode is read and discarded, PC not incremented; the operation runs
(R452). -/
def implied (op : Regs → Regs) : M Unit := do
  let g ← getRegs
  dummyRead g.pc
  setRegs op

/-- Class I in accumulator mode: the result goes to A (R452). -/
def accumulator (op : Byte → Regs → Byte × Regs) : M Unit :=
  implied (fun g => { (op g.a g).2 with a := (op g.a g).1 })

end Sys2Proof.Machine
end

