-- ==== Sys2Proof/Machine/Arithmetic.lean ====
section
/-! DEFINITION. Arithmetic, compare, increment and decrement (43_arithmetic.md). -/

namespace Sys2Proof.Machine

/-- ADC immediate (0x69, R551). -/
def execAdcImm (b1 : Byte) (s : State) : StepOutcome := runSeq (readImm b1 Regs.adc) s

/-- ADC zero page (0x65, R551). -/
def execAdcZp (b1 : Byte) (s : State) : StepOutcome := runSeq (readOperand (eaZp b1) Regs.adc) s

/-- ADC zero page,X (0x75, R551). -/
def execAdcZpx (b1 : Byte) (s : State) : StepOutcome := runSeq (readOperand (eaZpx b1) Regs.adc) s

/-- ADC absolute (0x6D, R551). -/
def execAdcAbs (b1 b2 : Byte) (s : State) : StepOutcome := runSeq (readOperand (eaAbs b1 b2) Regs.adc) s

/-- ADC absolute,X (0x7D, R551). -/
def execAdcAbsx (b1 b2 : Byte) (s : State) : StepOutcome := runSeq (readOperand (eaAbsx .onCross b1 b2) Regs.adc) s

/-- ADC absolute,Y (0x79, R551). -/
def execAdcAbsy (b1 b2 : Byte) (s : State) : StepOutcome := runSeq (readOperand (eaAbsy .onCross b1 b2) Regs.adc) s

/-- ADC (zero page,X) (0x61, R551). -/
def execAdcIzx (b1 : Byte) (s : State) : StepOutcome := runSeq (readOperand (eaIzx b1) Regs.adc) s

/-- ADC (zero page),Y (0x71, R551). -/
def execAdcIzy (b1 : Byte) (s : State) : StepOutcome := runSeq (readOperand (eaIzy .onCross b1) Regs.adc) s

/-- SBC immediate (0xE9, R553). -/
def execSbcImm (b1 : Byte) (s : State) : StepOutcome := runSeq (readImm b1 Regs.sbc) s

/-- SBC zero page (0xE5, R553). -/
def execSbcZp (b1 : Byte) (s : State) : StepOutcome := runSeq (readOperand (eaZp b1) Regs.sbc) s

/-- SBC zero page,X (0xF5, R553). -/
def execSbcZpx (b1 : Byte) (s : State) : StepOutcome := runSeq (readOperand (eaZpx b1) Regs.sbc) s

/-- SBC absolute (0xED, R553). -/
def execSbcAbs (b1 b2 : Byte) (s : State) : StepOutcome := runSeq (readOperand (eaAbs b1 b2) Regs.sbc) s

/-- SBC absolute,X (0xFD, R553). -/
def execSbcAbsx (b1 b2 : Byte) (s : State) : StepOutcome := runSeq (readOperand (eaAbsx .onCross b1 b2) Regs.sbc) s

/-- SBC absolute,Y (0xF9, R553). -/
def execSbcAbsy (b1 b2 : Byte) (s : State) : StepOutcome := runSeq (readOperand (eaAbsy .onCross b1 b2) Regs.sbc) s

/-- SBC (zero page,X) (0xE1, R553). -/
def execSbcIzx (b1 : Byte) (s : State) : StepOutcome := runSeq (readOperand (eaIzx b1) Regs.sbc) s

/-- SBC (zero page),Y (0xF1, R553). -/
def execSbcIzy (b1 : Byte) (s : State) : StepOutcome := runSeq (readOperand (eaIzy .onCross b1) Regs.sbc) s

/-- The operation of CMP (R556). -/
def Regs.cmp (m : Byte) (g : Regs) : Regs := g.compare g.a m

/-- CMP immediate (0xC9, R556). -/
def execCmpImm (b1 : Byte) (s : State) : StepOutcome := runSeq (readImm b1 Regs.cmp) s

/-- CMP zero page (0xC5, R556). -/
def execCmpZp (b1 : Byte) (s : State) : StepOutcome := runSeq (readOperand (eaZp b1) Regs.cmp) s

/-- CMP zero page,X (0xD5, R556). -/
def execCmpZpx (b1 : Byte) (s : State) : StepOutcome := runSeq (readOperand (eaZpx b1) Regs.cmp) s

/-- CMP absolute (0xCD, R556). -/
def execCmpAbs (b1 b2 : Byte) (s : State) : StepOutcome := runSeq (readOperand (eaAbs b1 b2) Regs.cmp) s

/-- CMP absolute,X (0xDD, R556). -/
def execCmpAbsx (b1 b2 : Byte) (s : State) : StepOutcome := runSeq (readOperand (eaAbsx .onCross b1 b2) Regs.cmp) s

/-- CMP absolute,Y (0xD9, R556). -/
def execCmpAbsy (b1 b2 : Byte) (s : State) : StepOutcome := runSeq (readOperand (eaAbsy .onCross b1 b2) Regs.cmp) s

/-- CMP (zero page,X) (0xC1, R556). -/
def execCmpIzx (b1 : Byte) (s : State) : StepOutcome := runSeq (readOperand (eaIzx b1) Regs.cmp) s

/-- CMP (zero page),Y (0xD1, R556). -/
def execCmpIzy (b1 : Byte) (s : State) : StepOutcome := runSeq (readOperand (eaIzy .onCross b1) Regs.cmp) s

/-- The operation of CPX (R557). -/
def Regs.cpx (m : Byte) (g : Regs) : Regs := g.compare g.x m

/-- CPX immediate (0xE0, R557). -/
def execCpxImm (b1 : Byte) (s : State) : StepOutcome := runSeq (readImm b1 Regs.cpx) s

/-- CPX zero page (0xE4, R557). -/
def execCpxZp (b1 : Byte) (s : State) : StepOutcome := runSeq (readOperand (eaZp b1) Regs.cpx) s

/-- CPX absolute (0xEC, R557). -/
def execCpxAbs (b1 b2 : Byte) (s : State) : StepOutcome := runSeq (readOperand (eaAbs b1 b2) Regs.cpx) s

/-- The operation of CPY (R558). -/
def Regs.cpy (m : Byte) (g : Regs) : Regs := g.compare g.y m

/-- CPY immediate (0xC0, R558). -/
def execCpyImm (b1 : Byte) (s : State) : StepOutcome := runSeq (readImm b1 Regs.cpy) s

/-- CPY zero page (0xC4, R558). -/
def execCpyZp (b1 : Byte) (s : State) : StepOutcome := runSeq (readOperand (eaZp b1) Regs.cpy) s

/-- CPY absolute (0xCC, R558). -/
def execCpyAbs (b1 b2 : Byte) (s : State) : StepOutcome := runSeq (readOperand (eaAbs b1 b2) Regs.cpy) s

/-- INC zero page (0xE6, R559). -/
def execIncZp (b1 : Byte) (s : State) : StepOutcome := runSeq (modifyOperand (eaZp b1) incByte) s

/-- INC zero page,X (0xF6, R559). -/
def execIncZpx (b1 : Byte) (s : State) : StepOutcome := runSeq (modifyOperand (eaZpx b1) incByte) s

/-- INC absolute (0xEE, R559). -/
def execIncAbs (b1 b2 : Byte) (s : State) : StepOutcome := runSeq (modifyOperand (eaAbs b1 b2) incByte) s

/-- INC absolute,X (0xFE, R559). -/
def execIncAbsx (b1 b2 : Byte) (s : State) : StepOutcome := runSeq (modifyOperand (eaAbsx .always b1 b2) incByte) s

/-- DEC zero page (0xC6, R560). -/
def execDecZp (b1 : Byte) (s : State) : StepOutcome := runSeq (modifyOperand (eaZp b1) decByte) s

/-- DEC zero page,X (0xD6, R560). -/
def execDecZpx (b1 : Byte) (s : State) : StepOutcome := runSeq (modifyOperand (eaZpx b1) decByte) s

/-- DEC absolute (0xCE, R560). -/
def execDecAbs (b1 b2 : Byte) (s : State) : StepOutcome := runSeq (modifyOperand (eaAbs b1 b2) decByte) s

/-- DEC absolute,X (0xDE, R560). -/
def execDecAbsx (b1 b2 : Byte) (s : State) : StepOutcome := runSeq (modifyOperand (eaAbsx .always b1 b2) decByte) s

/-- The operation of INX (R561). -/
def Regs.inx (g : Regs) : Regs := { g.nz (g.x + 1) with x := g.x + 1 }

/-- INX (0xE8, R561). -/
def execInx (s : State) : StepOutcome := runSeq (implied Regs.inx) s

/-- The operation of INY (R562). -/
def Regs.iny (g : Regs) : Regs := { g.nz (g.y + 1) with y := g.y + 1 }

/-- INY (0xC8, R562). -/
def execIny (s : State) : StepOutcome := runSeq (implied Regs.iny) s

/-- The operation of DEX (R563). -/
def Regs.dex (g : Regs) : Regs := { g.nz (g.x - 1) with x := g.x - 1 }

/-- DEX (0xCA, R563). -/
def execDex (s : State) : StepOutcome := runSeq (implied Regs.dex) s

/-- The operation of DEY (R564). -/
def Regs.dey (g : Regs) : Regs := { g.nz (g.y - 1) with y := g.y - 1 }

/-- DEY (0x88, R564). -/
def execDey (s : State) : StepOutcome := runSeq (implied Regs.dey) s

end Sys2Proof.Machine
end

