-- ==== Sys2Proof/Machine/Control.lean ====
section
/-! DEFINITION. Control transfer (45_control.md). -/

namespace Sys2Proof.Machine

/-- The branch sequence after its operand fetch, PC at PCn (R650): nothing more if not taken; one discarded
read at PCn if taken; one more, at the target with PCn's high byte, if the target is in another page. -/
def branch (taken : Regs → Bool) (b1 : Byte) : M Unit := do
  let g ← getRegs
  if taken g then
    let target := g.pc + sext b1
    dummyRead g.pc
    latchCross (hi8 target != hi8 g.pc)
    let l ← getLatches
    if l.cross then
      dummyRead (word (hi8 g.pc) (lo8 target))
    setPc target

/-- BPL is taken iff N = 0 (R651). -/
def Regs.bpl (g : Regs) : Bool := !g.n

/-- BPL (0x10, R651). -/
def execBplRel (b1 : Byte) (s : State) : StepOutcome := runSeq (branch Regs.bpl b1) s

/-- BMI is taken iff N = 1 (R652). -/
def Regs.bmi (g : Regs) : Bool := g.n

/-- BMI (0x30, R652). -/
def execBmiRel (b1 : Byte) (s : State) : StepOutcome := runSeq (branch Regs.bmi b1) s

/-- BVC is taken iff V = 0 (R653). -/
def Regs.bvc (g : Regs) : Bool := !g.v

/-- BVC (0x50, R653). -/
def execBvcRel (b1 : Byte) (s : State) : StepOutcome := runSeq (branch Regs.bvc b1) s

/-- BVS is taken iff V = 1 (R654). -/
def Regs.bvs (g : Regs) : Bool := g.v

/-- BVS (0x70, R654). -/
def execBvsRel (b1 : Byte) (s : State) : StepOutcome := runSeq (branch Regs.bvs b1) s

/-- BCC is taken iff C = 0 (R655). -/
def Regs.bcc (g : Regs) : Bool := !g.c

/-- BCC (0x90, R655). -/
def execBccRel (b1 : Byte) (s : State) : StepOutcome := runSeq (branch Regs.bcc b1) s

/-- BCS is taken iff C = 1 (R656). -/
def Regs.bcs (g : Regs) : Bool := g.c

/-- BCS (0xB0, R656). -/
def execBcsRel (b1 : Byte) (s : State) : StepOutcome := runSeq (branch Regs.bcs b1) s

/-- BNE is taken iff Z = 0 (R657). -/
def Regs.bne (g : Regs) : Bool := !g.z

/-- BNE (0xD0, R657). -/
def execBneRel (b1 : Byte) (s : State) : StepOutcome := runSeq (branch Regs.bne b1) s

/-- BEQ is taken iff Z = 1 (R658). -/
def Regs.beq (g : Regs) : Bool := g.z

/-- BEQ (0xF0, R658). -/
def execBeqRel (b1 : Byte) (s : State) : StepOutcome := runSeq (branch Regs.beq b1) s

/-- JMP absolute (0x4C, R659): its third cycle is the fetch of b2. -/
def execJmpAbs (b1 b2 : Byte) (s : State) : StepOutcome :=
  runSeq (do
    latchAdl b1
    latchAdh b2
    let l ← getLatches
    setPc (word l.adh l.adl)) s

/-- JMP indirect (0x6C, R660): the pointer's second byte comes from the page of its first. -/
def execJmpInd (b1 b2 : Byte) (s : State) : StepOutcome :=
  runSeq (do
    let adl ← readCycle (word b2 b1)
    latchAdl adl
    let adh ← readCycle (word b2 (b1 + 1))
    latchAdh adh
    let l ← getLatches
    setPc (word l.adh l.adl)) s

/-- JSR (0x20, R661), from its third cycle on, PC at its last byte. The high byte of the target is what
cycle 6 reads there, after the two pushes: `b2`, the byte seen there before them, is not used (log 6). -/
def execJsrAbs (b1 _b2 : Byte) (s : State) : StepOutcome :=
  runSeq (do
    latchAdl b1
    let g ← getRegs
    dummyRead (stackAddress g.s)
    push (hi8 g.pc)
    push (lo8 g.pc)
    let adh ← readCycle g.pc
    latchAdh adh
    let l ← getLatches
    setPc (word l.adh l.adl)) s

/-- RTS (0x60, R662). -/
def execRts (s : State) : StepOutcome :=
  runSeq (do
    let g ← getRegs
    dummyRead g.pc
    beginPull
    let pcl ← readStackInc
    setRegs (fun g => { g with pc := word (hi8 g.pc) pcl })
    let pch ← readStack
    setRegs (fun g => { g with pc := word pch (lo8 g.pc) })
    let g ← getRegs
    dummyRead g.pc
    incPc) s

/-- BRK (0x00, R664): the padding byte is read and skipped, then interrupt entry with B = 1. -/
def execBrk (s : State) : StepOutcome :=
  runSeq (do
    let g ← getRegs
    dummyRead g.pc
    incPc
    interruptEntry true irqVector) s

/-- RTI (0x40, R665). -/
def execRti (s : State) : StepOutcome :=
  runSeq (do
    let g ← getRegs
    dummyRead g.pc
    interruptReturn) s

end Sys2Proof.Machine
end

