-- ==== Sys2Proof/Machine/LoadStore.lean ====
section
/-! DEFINITION. Loads, stores and register transfers (42_load_store_transfer.md). -/

namespace Sys2Proof.Machine

/-- The operation of LDA (R501). -/
def Regs.lda (m : Byte) (g : Regs) : Regs := { g.nz m with a := m }

/-- LDA immediate (0xA9, R501). -/
def execLdaImm (b1 : Byte) (s : State) : StepOutcome := runSeq (readImm b1 Regs.lda) s

/-- LDA zero page (0xA5, R501). -/
def execLdaZp (b1 : Byte) (s : State) : StepOutcome := runSeq (readOperand (eaZp b1) Regs.lda) s

/-- LDA zero page,X (0xB5, R501). -/
def execLdaZpx (b1 : Byte) (s : State) : StepOutcome := runSeq (readOperand (eaZpx b1) Regs.lda) s

/-- LDA absolute (0xAD, R501). -/
def execLdaAbs (b1 b2 : Byte) (s : State) : StepOutcome := runSeq (readOperand (eaAbs b1 b2) Regs.lda) s

/-- LDA absolute,X (0xBD, R501). -/
def execLdaAbsx (b1 b2 : Byte) (s : State) : StepOutcome := runSeq (readOperand (eaAbsx .onCross b1 b2) Regs.lda) s

/-- LDA absolute,Y (0xB9, R501). -/
def execLdaAbsy (b1 b2 : Byte) (s : State) : StepOutcome := runSeq (readOperand (eaAbsy .onCross b1 b2) Regs.lda) s

/-- LDA (zero page,X) (0xA1, R501). -/
def execLdaIzx (b1 : Byte) (s : State) : StepOutcome := runSeq (readOperand (eaIzx b1) Regs.lda) s

/-- LDA (zero page),Y (0xB1, R501). -/
def execLdaIzy (b1 : Byte) (s : State) : StepOutcome := runSeq (readOperand (eaIzy .onCross b1) Regs.lda) s

/-- The operation of LDX (R502). -/
def Regs.ldx (m : Byte) (g : Regs) : Regs := { g.nz m with x := m }

/-- LDX immediate (0xA2, R502). -/
def execLdxImm (b1 : Byte) (s : State) : StepOutcome := runSeq (readImm b1 Regs.ldx) s

/-- LDX zero page (0xA6, R502). -/
def execLdxZp (b1 : Byte) (s : State) : StepOutcome := runSeq (readOperand (eaZp b1) Regs.ldx) s

/-- LDX zero page,Y (0xB6, R502). -/
def execLdxZpy (b1 : Byte) (s : State) : StepOutcome := runSeq (readOperand (eaZpy b1) Regs.ldx) s

/-- LDX absolute (0xAE, R502). -/
def execLdxAbs (b1 b2 : Byte) (s : State) : StepOutcome := runSeq (readOperand (eaAbs b1 b2) Regs.ldx) s

/-- LDX absolute,Y (0xBE, R502). -/
def execLdxAbsy (b1 b2 : Byte) (s : State) : StepOutcome := runSeq (readOperand (eaAbsy .onCross b1 b2) Regs.ldx) s

/-- The operation of LDY (R503). -/
def Regs.ldy (m : Byte) (g : Regs) : Regs := { g.nz m with y := m }

/-- LDY immediate (0xA0, R503). -/
def execLdyImm (b1 : Byte) (s : State) : StepOutcome := runSeq (readImm b1 Regs.ldy) s

/-- LDY zero page (0xA4, R503). -/
def execLdyZp (b1 : Byte) (s : State) : StepOutcome := runSeq (readOperand (eaZp b1) Regs.ldy) s

/-- LDY zero page,X (0xB4, R503). -/
def execLdyZpx (b1 : Byte) (s : State) : StepOutcome := runSeq (readOperand (eaZpx b1) Regs.ldy) s

/-- LDY absolute (0xAC, R503). -/
def execLdyAbs (b1 b2 : Byte) (s : State) : StepOutcome := runSeq (readOperand (eaAbs b1 b2) Regs.ldy) s

/-- LDY absolute,X (0xBC, R503). -/
def execLdyAbsx (b1 b2 : Byte) (s : State) : StepOutcome := runSeq (readOperand (eaAbsx .onCross b1 b2) Regs.ldy) s

/-- STA zero page (0x85, R504). -/
def execStaZp (b1 : Byte) (s : State) : StepOutcome := runSeq (writeOperand (eaZp b1) Regs.a) s

/-- STA zero page,X (0x95, R504). -/
def execStaZpx (b1 : Byte) (s : State) : StepOutcome := runSeq (writeOperand (eaZpx b1) Regs.a) s

/-- STA absolute (0x8D, R504). -/
def execStaAbs (b1 b2 : Byte) (s : State) : StepOutcome := runSeq (writeOperand (eaAbs b1 b2) Regs.a) s

/-- STA absolute,X (0x9D, R504). -/
def execStaAbsx (b1 b2 : Byte) (s : State) : StepOutcome := runSeq (writeOperand (eaAbsx .always b1 b2) Regs.a) s

/-- STA absolute,Y (0x99, R504). -/
def execStaAbsy (b1 b2 : Byte) (s : State) : StepOutcome := runSeq (writeOperand (eaAbsy .always b1 b2) Regs.a) s

/-- STA (zero page,X) (0x81, R504). -/
def execStaIzx (b1 : Byte) (s : State) : StepOutcome := runSeq (writeOperand (eaIzx b1) Regs.a) s

/-- STA (zero page),Y (0x91, R504). -/
def execStaIzy (b1 : Byte) (s : State) : StepOutcome := runSeq (writeOperand (eaIzy .always b1) Regs.a) s

/-- STX zero page (0x86, R505). -/
def execStxZp (b1 : Byte) (s : State) : StepOutcome := runSeq (writeOperand (eaZp b1) Regs.x) s

/-- STX zero page,Y (0x96, R505). -/
def execStxZpy (b1 : Byte) (s : State) : StepOutcome := runSeq (writeOperand (eaZpy b1) Regs.x) s

/-- STX absolute (0x8E, R505). -/
def execStxAbs (b1 b2 : Byte) (s : State) : StepOutcome := runSeq (writeOperand (eaAbs b1 b2) Regs.x) s

/-- STY zero page (0x84, R506). -/
def execStyZp (b1 : Byte) (s : State) : StepOutcome := runSeq (writeOperand (eaZp b1) Regs.y) s

/-- STY zero page,X (0x94, R506). -/
def execStyZpx (b1 : Byte) (s : State) : StepOutcome := runSeq (writeOperand (eaZpx b1) Regs.y) s

/-- STY absolute (0x8C, R506). -/
def execStyAbs (b1 b2 : Byte) (s : State) : StepOutcome := runSeq (writeOperand (eaAbs b1 b2) Regs.y) s

/-- The operation of TAX (R507). -/
def Regs.tax (g : Regs) : Regs := { g.nz g.a with x := g.a }

/-- TAX (0xAA, R507). -/
def execTax (s : State) : StepOutcome := runSeq (implied Regs.tax) s

/-- The operation of TAY (R508). -/
def Regs.tay (g : Regs) : Regs := { g.nz g.a with y := g.a }

/-- TAY (0xA8, R508). -/
def execTay (s : State) : StepOutcome := runSeq (implied Regs.tay) s

/-- The operation of TSX (R509). -/
def Regs.tsx (g : Regs) : Regs := { g.nz g.s with x := g.s }

/-- TSX (0xBA, R509). -/
def execTsx (s : State) : StepOutcome := runSeq (implied Regs.tsx) s

/-- The operation of TXA (R510). -/
def Regs.txa (g : Regs) : Regs := { g.nz g.x with a := g.x }

/-- TXA (0x8A, R510). -/
def execTxa (s : State) : StepOutcome := runSeq (implied Regs.txa) s

/-- The operation of TXS (R511). -/
def Regs.txs (g : Regs) : Regs := { g with s := g.x }

/-- TXS (0x9A, R511). -/
def execTxs (s : State) : StepOutcome := runSeq (implied Regs.txs) s

/-- The operation of TYA (R512). -/
def Regs.tya (g : Regs) : Regs := { g.nz g.y with a := g.y }

/-- TYA (0x98, R512). -/
def execTya (s : State) : StepOutcome := runSeq (implied Regs.tya) s

end Sys2Proof.Machine
end

