-- ==== Sys2Proof/Machine/Logic.lean ====
section
/-! DEFINITION. Logical operations, bit test, shifts and rotates (44_logic_shift.md). -/

namespace Sys2Proof.Machine

/-- The operation of AND (R600). -/
def Regs.and (m : Byte) (g : Regs) : Regs := { g.nz (g.a &&& m) with a := g.a &&& m }

/-- AND immediate (0x29, R600). -/
def execAndImm (b1 : Byte) (s : State) : StepOutcome := runSeq (readImm b1 Regs.and) s

/-- AND zero page (0x25, R600). -/
def execAndZp (b1 : Byte) (s : State) : StepOutcome := runSeq (readOperand (eaZp b1) Regs.and) s

/-- AND zero page,X (0x35, R600). -/
def execAndZpx (b1 : Byte) (s : State) : StepOutcome := runSeq (readOperand (eaZpx b1) Regs.and) s

/-- AND absolute (0x2D, R600). -/
def execAndAbs (b1 b2 : Byte) (s : State) : StepOutcome := runSeq (readOperand (eaAbs b1 b2) Regs.and) s

/-- AND absolute,X (0x3D, R600). -/
def execAndAbsx (b1 b2 : Byte) (s : State) : StepOutcome := runSeq (readOperand (eaAbsx .onCross b1 b2) Regs.and) s

/-- AND absolute,Y (0x39, R600). -/
def execAndAbsy (b1 b2 : Byte) (s : State) : StepOutcome := runSeq (readOperand (eaAbsy .onCross b1 b2) Regs.and) s

/-- AND (zero page,X) (0x21, R600). -/
def execAndIzx (b1 : Byte) (s : State) : StepOutcome := runSeq (readOperand (eaIzx b1) Regs.and) s

/-- AND (zero page),Y (0x31, R600). -/
def execAndIzy (b1 : Byte) (s : State) : StepOutcome := runSeq (readOperand (eaIzy .onCross b1) Regs.and) s

/-- The operation of ORA (R601). -/
def Regs.ora (m : Byte) (g : Regs) : Regs := { g.nz (g.a ||| m) with a := g.a ||| m }

/-- ORA immediate (0x09, R601). -/
def execOraImm (b1 : Byte) (s : State) : StepOutcome := runSeq (readImm b1 Regs.ora) s

/-- ORA zero page (0x05, R601). -/
def execOraZp (b1 : Byte) (s : State) : StepOutcome := runSeq (readOperand (eaZp b1) Regs.ora) s

/-- ORA zero page,X (0x15, R601). -/
def execOraZpx (b1 : Byte) (s : State) : StepOutcome := runSeq (readOperand (eaZpx b1) Regs.ora) s

/-- ORA absolute (0x0D, R601). -/
def execOraAbs (b1 b2 : Byte) (s : State) : StepOutcome := runSeq (readOperand (eaAbs b1 b2) Regs.ora) s

/-- ORA absolute,X (0x1D, R601). -/
def execOraAbsx (b1 b2 : Byte) (s : State) : StepOutcome := runSeq (readOperand (eaAbsx .onCross b1 b2) Regs.ora) s

/-- ORA absolute,Y (0x19, R601). -/
def execOraAbsy (b1 b2 : Byte) (s : State) : StepOutcome := runSeq (readOperand (eaAbsy .onCross b1 b2) Regs.ora) s

/-- ORA (zero page,X) (0x01, R601). -/
def execOraIzx (b1 : Byte) (s : State) : StepOutcome := runSeq (readOperand (eaIzx b1) Regs.ora) s

/-- ORA (zero page),Y (0x11, R601). -/
def execOraIzy (b1 : Byte) (s : State) : StepOutcome := runSeq (readOperand (eaIzy .onCross b1) Regs.ora) s

/-- The operation of EOR (R602). -/
def Regs.eor (m : Byte) (g : Regs) : Regs := { g.nz (g.a ^^^ m) with a := g.a ^^^ m }

/-- EOR immediate (0x49, R602). -/
def execEorImm (b1 : Byte) (s : State) : StepOutcome := runSeq (readImm b1 Regs.eor) s

/-- EOR zero page (0x45, R602). -/
def execEorZp (b1 : Byte) (s : State) : StepOutcome := runSeq (readOperand (eaZp b1) Regs.eor) s

/-- EOR zero page,X (0x55, R602). -/
def execEorZpx (b1 : Byte) (s : State) : StepOutcome := runSeq (readOperand (eaZpx b1) Regs.eor) s

/-- EOR absolute (0x4D, R602). -/
def execEorAbs (b1 b2 : Byte) (s : State) : StepOutcome := runSeq (readOperand (eaAbs b1 b2) Regs.eor) s

/-- EOR absolute,X (0x5D, R602). -/
def execEorAbsx (b1 b2 : Byte) (s : State) : StepOutcome := runSeq (readOperand (eaAbsx .onCross b1 b2) Regs.eor) s

/-- EOR absolute,Y (0x59, R602). -/
def execEorAbsy (b1 b2 : Byte) (s : State) : StepOutcome := runSeq (readOperand (eaAbsy .onCross b1 b2) Regs.eor) s

/-- EOR (zero page,X) (0x41, R602). -/
def execEorIzx (b1 : Byte) (s : State) : StepOutcome := runSeq (readOperand (eaIzx b1) Regs.eor) s

/-- EOR (zero page),Y (0x51, R602). -/
def execEorIzy (b1 : Byte) (s : State) : StepOutcome := runSeq (readOperand (eaIzy .onCross b1) Regs.eor) s

/-- BIT zero page (0x24, R603). -/
def execBitZp (b1 : Byte) (s : State) : StepOutcome := runSeq (readOperand (eaZp b1) Regs.bitTest) s

/-- BIT absolute (0x2C, R603). -/
def execBitAbs (b1 b2 : Byte) (s : State) : StepOutcome := runSeq (readOperand (eaAbs b1 b2) Regs.bitTest) s

/-- ASL accumulator (0x0A, R604). -/
def execAslAcc (s : State) : StepOutcome := runSeq (accumulator aslByte) s

/-- ASL zero page (0x06, R604). -/
def execAslZp (b1 : Byte) (s : State) : StepOutcome := runSeq (modifyOperand (eaZp b1) aslByte) s

/-- ASL zero page,X (0x16, R604). -/
def execAslZpx (b1 : Byte) (s : State) : StepOutcome := runSeq (modifyOperand (eaZpx b1) aslByte) s

/-- ASL absolute (0x0E, R604). -/
def execAslAbs (b1 b2 : Byte) (s : State) : StepOutcome := runSeq (modifyOperand (eaAbs b1 b2) aslByte) s

/-- ASL absolute,X (0x1E, R604). -/
def execAslAbsx (b1 b2 : Byte) (s : State) : StepOutcome := runSeq (modifyOperand (eaAbsx .always b1 b2) aslByte) s

/-- LSR accumulator (0x4A, R605). -/
def execLsrAcc (s : State) : StepOutcome := runSeq (accumulator lsrByte) s

/-- LSR zero page (0x46, R605). -/
def execLsrZp (b1 : Byte) (s : State) : StepOutcome := runSeq (modifyOperand (eaZp b1) lsrByte) s

/-- LSR zero page,X (0x56, R605). -/
def execLsrZpx (b1 : Byte) (s : State) : StepOutcome := runSeq (modifyOperand (eaZpx b1) lsrByte) s

/-- LSR absolute (0x4E, R605). -/
def execLsrAbs (b1 b2 : Byte) (s : State) : StepOutcome := runSeq (modifyOperand (eaAbs b1 b2) lsrByte) s

/-- LSR absolute,X (0x5E, R605). -/
def execLsrAbsx (b1 b2 : Byte) (s : State) : StepOutcome := runSeq (modifyOperand (eaAbsx .always b1 b2) lsrByte) s

/-- ROL accumulator (0x2A, R606). -/
def execRolAcc (s : State) : StepOutcome := runSeq (accumulator rolByte) s

/-- ROL zero page (0x26, R606). -/
def execRolZp (b1 : Byte) (s : State) : StepOutcome := runSeq (modifyOperand (eaZp b1) rolByte) s

/-- ROL zero page,X (0x36, R606). -/
def execRolZpx (b1 : Byte) (s : State) : StepOutcome := runSeq (modifyOperand (eaZpx b1) rolByte) s

/-- ROL absolute (0x2E, R606). -/
def execRolAbs (b1 b2 : Byte) (s : State) : StepOutcome := runSeq (modifyOperand (eaAbs b1 b2) rolByte) s

/-- ROL absolute,X (0x3E, R606). -/
def execRolAbsx (b1 b2 : Byte) (s : State) : StepOutcome := runSeq (modifyOperand (eaAbsx .always b1 b2) rolByte) s

/-- ROR accumulator (0x6A, R607). -/
def execRorAcc (s : State) : StepOutcome := runSeq (accumulator rorByte) s

/-- ROR zero page (0x66, R607). -/
def execRorZp (b1 : Byte) (s : State) : StepOutcome := runSeq (modifyOperand (eaZp b1) rorByte) s

/-- ROR zero page,X (0x76, R607). -/
def execRorZpx (b1 : Byte) (s : State) : StepOutcome := runSeq (modifyOperand (eaZpx b1) rorByte) s

/-- ROR absolute (0x6E, R607). -/
def execRorAbs (b1 b2 : Byte) (s : State) : StepOutcome := runSeq (modifyOperand (eaAbs b1 b2) rorByte) s

/-- ROR absolute,X (0x7E, R607). -/
def execRorAbsx (b1 b2 : Byte) (s : State) : StepOutcome := runSeq (modifyOperand (eaAbsx .always b1 b2) rorByte) s

end Sys2Proof.Machine
end

