-- ==== Sys2Proof/Machine/StackFlags.lean ====
section
/-! DEFINITION. Stack operations, flag operations and NOP (46_stack_flags_misc.md). -/

namespace Sys2Proof.Machine

/-- The push instructions: the byte after the opcode is read and discarded, then the push (R700, R701). -/
def pushInstr (byte : Regs → Byte) : M Unit := do
  let g ← getRegs
  dummyRead g.pc
  push (byte g)

/-- The pull instructions: two discarded reads, then the pull (R702, R703). -/
def pullInstr (op : Byte → Regs → Regs) : M Unit := do
  let g ← getRegs
  dummyRead g.pc
  beginPull
  let v ← readStack
  setRegs (op v)

/-- PHA (0x48, R700). -/
def execPha (s : State) : StepOutcome := runSeq (pushInstr Regs.a) s

/-- PHP (0x08, R701): bits 4 and 5 of the pushed byte are 1. -/
def execPhp (s : State) : StepOutcome := runSeq (pushInstr (fun g => g.pByte true)) s

/-- PLA (0x68, R702). -/
def execPla (s : State) : StepOutcome := runSeq (pullInstr (fun v g => { g.nz v with a := v })) s

/-- PLP (0x28, R703). -/
def execPlp (s : State) : StepOutcome := runSeq (pullInstr (fun v g => g.loadP v)) s

/-- The operation of CLC (R704). -/
def Regs.clc (g : Regs) : Regs := { g with c := false }

/-- CLC (0x18, R704). -/
def execClc (s : State) : StepOutcome := runSeq (implied Regs.clc) s

/-- The operation of SEC (R705). -/
def Regs.sec (g : Regs) : Regs := { g with c := true }

/-- SEC (0x38, R705). -/
def execSec (s : State) : StepOutcome := runSeq (implied Regs.sec) s

/-- The operation of CLD (R706). -/
def Regs.cld (g : Regs) : Regs := { g with d := false }

/-- CLD (0xD8, R706). -/
def execCld (s : State) : StepOutcome := runSeq (implied Regs.cld) s

/-- The operation of SED (R707). -/
def Regs.sed (g : Regs) : Regs := { g with d := true }

/-- SED (0xF8, R707). -/
def execSed (s : State) : StepOutcome := runSeq (implied Regs.sed) s

/-- The operation of CLI (R708). -/
def Regs.cli (g : Regs) : Regs := { g with i := false }

/-- CLI (0x58, R708). -/
def execCli (s : State) : StepOutcome := runSeq (implied Regs.cli) s

/-- The operation of SEI (R709). -/
def Regs.sei (g : Regs) : Regs := { g with i := true }

/-- SEI (0x78, R709). -/
def execSei (s : State) : StepOutcome := runSeq (implied Regs.sei) s

/-- The operation of CLV (R710). -/
def Regs.clv (g : Regs) : Regs := { g with v := false }

/-- CLV (0xB8, R710). -/
def execClv (s : State) : StepOutcome := runSeq (implied Regs.clv) s

/-- NOP (0xEA, R711). -/
def execNop (s : State) : StepOutcome := runSeq (implied id) s

/-- The report of an unimplemented opcode that is run as a no-op (60_exceptions.md R804). -/
def reportOpcode (op : Byte) (fetchedAt : Word) : M Unit := fun r =>
  .ok () { r with
    m := { r.m with result := { r.m.result with reports := r.m.result.reports ++ [⟨op, fetchedAt⟩] } } }

/-- A 1-byte, 2-cycle no-op in place of an unimplemented opcode, from its second cycle on, with its report
(60_exceptions.md R804). Not an instruction: `Step.lean` runs it under policy `SubstituteNop`. -/
def substituteNop (op : Byte) (fetchedAt : Word) : M Unit := do
  let g ← getRegs
  dummyRead g.pc
  reportOpcode op fetchedAt

end Sys2Proof.Machine
end

