-- ==== Sys2Proof/Machine/Dispatch.lean ====
section
/-! DEFINITION. One arm for each instruction: its meaning. -/

namespace Sys2Proof.Machine

/-- What an instruction does, from the state in which its operand bytes have just been fetched (log 11). -/
def exec (i : Instr) (s : State) : Host.Outcome State Fault Refusal :=
  match i with
  -- LDA, R501
  | .ldaImm b1 => Sys2Proof.Machine.execLdaImm b1 s
  | .ldaZp b1 => Sys2Proof.Machine.execLdaZp b1 s
  | .ldaZpx b1 => Sys2Proof.Machine.execLdaZpx b1 s
  | .ldaAbs b1 b2 => Sys2Proof.Machine.execLdaAbs b1 b2 s
  | .ldaAbsx b1 b2 => Sys2Proof.Machine.execLdaAbsx b1 b2 s
  | .ldaAbsy b1 b2 => Sys2Proof.Machine.execLdaAbsy b1 b2 s
  | .ldaIzx b1 => Sys2Proof.Machine.execLdaIzx b1 s
  | .ldaIzy b1 => Sys2Proof.Machine.execLdaIzy b1 s
  -- LDX, R502
  | .ldxImm b1 => Sys2Proof.Machine.execLdxImm b1 s
  | .ldxZp b1 => Sys2Proof.Machine.execLdxZp b1 s
  | .ldxZpy b1 => Sys2Proof.Machine.execLdxZpy b1 s
  | .ldxAbs b1 b2 => Sys2Proof.Machine.execLdxAbs b1 b2 s
  | .ldxAbsy b1 b2 => Sys2Proof.Machine.execLdxAbsy b1 b2 s
  -- LDY, R503
  | .ldyImm b1 => Sys2Proof.Machine.execLdyImm b1 s
  | .ldyZp b1 => Sys2Proof.Machine.execLdyZp b1 s
  | .ldyZpx b1 => Sys2Proof.Machine.execLdyZpx b1 s
  | .ldyAbs b1 b2 => Sys2Proof.Machine.execLdyAbs b1 b2 s
  | .ldyAbsx b1 b2 => Sys2Proof.Machine.execLdyAbsx b1 b2 s
  -- STA, R504
  | .staZp b1 => Sys2Proof.Machine.execStaZp b1 s
  | .staZpx b1 => Sys2Proof.Machine.execStaZpx b1 s
  | .staAbs b1 b2 => Sys2Proof.Machine.execStaAbs b1 b2 s
  | .staAbsx b1 b2 => Sys2Proof.Machine.execStaAbsx b1 b2 s
  | .staAbsy b1 b2 => Sys2Proof.Machine.execStaAbsy b1 b2 s
  | .staIzx b1 => Sys2Proof.Machine.execStaIzx b1 s
  | .staIzy b1 => Sys2Proof.Machine.execStaIzy b1 s
  -- STX, R505
  | .stxZp b1 => Sys2Proof.Machine.execStxZp b1 s
  | .stxZpy b1 => Sys2Proof.Machine.execStxZpy b1 s
  | .stxAbs b1 b2 => Sys2Proof.Machine.execStxAbs b1 b2 s
  -- STY, R506
  | .styZp b1 => Sys2Proof.Machine.execStyZp b1 s
  | .styZpx b1 => Sys2Proof.Machine.execStyZpx b1 s
  | .styAbs b1 b2 => Sys2Proof.Machine.execStyAbs b1 b2 s
  -- TAX, R507
  | .tax => Sys2Proof.Machine.execTax s
  -- TAY, R508
  | .tay => Sys2Proof.Machine.execTay s
  -- TSX, R509
  | .tsx => Sys2Proof.Machine.execTsx s
  -- TXA, R510
  | .txa => Sys2Proof.Machine.execTxa s
  -- TXS, R511
  | .txs => Sys2Proof.Machine.execTxs s
  -- TYA, R512
  | .tya => Sys2Proof.Machine.execTya s
  -- ADC, R551
  | .adcImm b1 => Sys2Proof.Machine.execAdcImm b1 s
  | .adcZp b1 => Sys2Proof.Machine.execAdcZp b1 s
  | .adcZpx b1 => Sys2Proof.Machine.execAdcZpx b1 s
  | .adcAbs b1 b2 => Sys2Proof.Machine.execAdcAbs b1 b2 s
  | .adcAbsx b1 b2 => Sys2Proof.Machine.execAdcAbsx b1 b2 s
  | .adcAbsy b1 b2 => Sys2Proof.Machine.execAdcAbsy b1 b2 s
  | .adcIzx b1 => Sys2Proof.Machine.execAdcIzx b1 s
  | .adcIzy b1 => Sys2Proof.Machine.execAdcIzy b1 s
  -- SBC, R553
  | .sbcImm b1 => Sys2Proof.Machine.execSbcImm b1 s
  | .sbcZp b1 => Sys2Proof.Machine.execSbcZp b1 s
  | .sbcZpx b1 => Sys2Proof.Machine.execSbcZpx b1 s
  | .sbcAbs b1 b2 => Sys2Proof.Machine.execSbcAbs b1 b2 s
  | .sbcAbsx b1 b2 => Sys2Proof.Machine.execSbcAbsx b1 b2 s
  | .sbcAbsy b1 b2 => Sys2Proof.Machine.execSbcAbsy b1 b2 s
  | .sbcIzx b1 => Sys2Proof.Machine.execSbcIzx b1 s
  | .sbcIzy b1 => Sys2Proof.Machine.execSbcIzy b1 s
  -- CMP, R556
  | .cmpImm b1 => Sys2Proof.Machine.execCmpImm b1 s
  | .cmpZp b1 => Sys2Proof.Machine.execCmpZp b1 s
  | .cmpZpx b1 => Sys2Proof.Machine.execCmpZpx b1 s
  | .cmpAbs b1 b2 => Sys2Proof.Machine.execCmpAbs b1 b2 s
  | .cmpAbsx b1 b2 => Sys2Proof.Machine.execCmpAbsx b1 b2 s
  | .cmpAbsy b1 b2 => Sys2Proof.Machine.execCmpAbsy b1 b2 s
  | .cmpIzx b1 => Sys2Proof.Machine.execCmpIzx b1 s
  | .cmpIzy b1 => Sys2Proof.Machine.execCmpIzy b1 s
  -- CPX, R557
  | .cpxImm b1 => Sys2Proof.Machine.execCpxImm b1 s
  | .cpxZp b1 => Sys2Proof.Machine.execCpxZp b1 s
  | .cpxAbs b1 b2 => Sys2Proof.Machine.execCpxAbs b1 b2 s
  -- CPY, R558
  | .cpyImm b1 => Sys2Proof.Machine.execCpyImm b1 s
  | .cpyZp b1 => Sys2Proof.Machine.execCpyZp b1 s
  | .cpyAbs b1 b2 => Sys2Proof.Machine.execCpyAbs b1 b2 s
  -- INC, R559
  | .incZp b1 => Sys2Proof.Machine.execIncZp b1 s
  | .incZpx b1 => Sys2Proof.Machine.execIncZpx b1 s
  | .incAbs b1 b2 => Sys2Proof.Machine.execIncAbs b1 b2 s
  | .incAbsx b1 b2 => Sys2Proof.Machine.execIncAbsx b1 b2 s
  -- DEC, R560
  | .decZp b1 => Sys2Proof.Machine.execDecZp b1 s
  | .decZpx b1 => Sys2Proof.Machine.execDecZpx b1 s
  | .decAbs b1 b2 => Sys2Proof.Machine.execDecAbs b1 b2 s
  | .decAbsx b1 b2 => Sys2Proof.Machine.execDecAbsx b1 b2 s
  -- INX, R561
  | .inx => Sys2Proof.Machine.execInx s
  -- INY, R562
  | .iny => Sys2Proof.Machine.execIny s
  -- DEX, R563
  | .dex => Sys2Proof.Machine.execDex s
  -- DEY, R564
  | .dey => Sys2Proof.Machine.execDey s
  -- AND, R600
  | .andImm b1 => Sys2Proof.Machine.execAndImm b1 s
  | .andZp b1 => Sys2Proof.Machine.execAndZp b1 s
  | .andZpx b1 => Sys2Proof.Machine.execAndZpx b1 s
  | .andAbs b1 b2 => Sys2Proof.Machine.execAndAbs b1 b2 s
  | .andAbsx b1 b2 => Sys2Proof.Machine.execAndAbsx b1 b2 s
  | .andAbsy b1 b2 => Sys2Proof.Machine.execAndAbsy b1 b2 s
  | .andIzx b1 => Sys2Proof.Machine.execAndIzx b1 s
  | .andIzy b1 => Sys2Proof.Machine.execAndIzy b1 s
  -- ORA, R601
  | .oraImm b1 => Sys2Proof.Machine.execOraImm b1 s
  | .oraZp b1 => Sys2Proof.Machine.execOraZp b1 s
  | .oraZpx b1 => Sys2Proof.Machine.execOraZpx b1 s
  | .oraAbs b1 b2 => Sys2Proof.Machine.execOraAbs b1 b2 s
  | .oraAbsx b1 b2 => Sys2Proof.Machine.execOraAbsx b1 b2 s
  | .oraAbsy b1 b2 => Sys2Proof.Machine.execOraAbsy b1 b2 s
  | .oraIzx b1 => Sys2Proof.Machine.execOraIzx b1 s
  | .oraIzy b1 => Sys2Proof.Machine.execOraIzy b1 s
  -- EOR, R602
  | .eorImm b1 => Sys2Proof.Machine.execEorImm b1 s
  | .eorZp b1 => Sys2Proof.Machine.execEorZp b1 s
  | .eorZpx b1 => Sys2Proof.Machine.execEorZpx b1 s
  | .eorAbs b1 b2 => Sys2Proof.Machine.execEorAbs b1 b2 s
  | .eorAbsx b1 b2 => Sys2Proof.Machine.execEorAbsx b1 b2 s
  | .eorAbsy b1 b2 => Sys2Proof.Machine.execEorAbsy b1 b2 s
  | .eorIzx b1 => Sys2Proof.Machine.execEorIzx b1 s
  | .eorIzy b1 => Sys2Proof.Machine.execEorIzy b1 s
  -- BIT, R603
  | .bitZp b1 => Sys2Proof.Machine.execBitZp b1 s
  | .bitAbs b1 b2 => Sys2Proof.Machine.execBitAbs b1 b2 s
  -- ASL, R604
  | .aslAcc => Sys2Proof.Machine.execAslAcc s
  | .aslZp b1 => Sys2Proof.Machine.execAslZp b1 s
  | .aslZpx b1 => Sys2Proof.Machine.execAslZpx b1 s
  | .aslAbs b1 b2 => Sys2Proof.Machine.execAslAbs b1 b2 s
  | .aslAbsx b1 b2 => Sys2Proof.Machine.execAslAbsx b1 b2 s
  -- LSR, R605
  | .lsrAcc => Sys2Proof.Machine.execLsrAcc s
  | .lsrZp b1 => Sys2Proof.Machine.execLsrZp b1 s
  | .lsrZpx b1 => Sys2Proof.Machine.execLsrZpx b1 s
  | .lsrAbs b1 b2 => Sys2Proof.Machine.execLsrAbs b1 b2 s
  | .lsrAbsx b1 b2 => Sys2Proof.Machine.execLsrAbsx b1 b2 s
  -- ROL, R606
  | .rolAcc => Sys2Proof.Machine.execRolAcc s
  | .rolZp b1 => Sys2Proof.Machine.execRolZp b1 s
  | .rolZpx b1 => Sys2Proof.Machine.execRolZpx b1 s
  | .rolAbs b1 b2 => Sys2Proof.Machine.execRolAbs b1 b2 s
  | .rolAbsx b1 b2 => Sys2Proof.Machine.execRolAbsx b1 b2 s
  -- ROR, R607
  | .rorAcc => Sys2Proof.Machine.execRorAcc s
  | .rorZp b1 => Sys2Proof.Machine.execRorZp b1 s
  | .rorZpx b1 => Sys2Proof.Machine.execRorZpx b1 s
  | .rorAbs b1 b2 => Sys2Proof.Machine.execRorAbs b1 b2 s
  | .rorAbsx b1 b2 => Sys2Proof.Machine.execRorAbsx b1 b2 s
  -- BPL, R651
  | .bplRel b1 => Sys2Proof.Machine.execBplRel b1 s
  -- BMI, R652
  | .bmiRel b1 => Sys2Proof.Machine.execBmiRel b1 s
  -- BVC, R653
  | .bvcRel b1 => Sys2Proof.Machine.execBvcRel b1 s
  -- BVS, R654
  | .bvsRel b1 => Sys2Proof.Machine.execBvsRel b1 s
  -- BCC, R655
  | .bccRel b1 => Sys2Proof.Machine.execBccRel b1 s
  -- BCS, R656
  | .bcsRel b1 => Sys2Proof.Machine.execBcsRel b1 s
  -- BNE, R657
  | .bneRel b1 => Sys2Proof.Machine.execBneRel b1 s
  -- BEQ, R658
  | .beqRel b1 => Sys2Proof.Machine.execBeqRel b1 s
  -- JMP, R659
  | .jmpAbs b1 b2 => Sys2Proof.Machine.execJmpAbs b1 b2 s
  | .jmpInd b1 b2 => Sys2Proof.Machine.execJmpInd b1 b2 s
  -- JSR, R661
  | .jsrAbs b1 b2 => Sys2Proof.Machine.execJsrAbs b1 b2 s
  -- RTS, R662
  | .rts => Sys2Proof.Machine.execRts s
  -- BRK, R664
  | .brk => Sys2Proof.Machine.execBrk s
  -- RTI, R665
  | .rti => Sys2Proof.Machine.execRti s
  -- PHA, R700
  | .pha => Sys2Proof.Machine.execPha s
  -- PHP, R701
  | .php => Sys2Proof.Machine.execPhp s
  -- PLA, R702
  | .pla => Sys2Proof.Machine.execPla s
  -- PLP, R703
  | .plp => Sys2Proof.Machine.execPlp s
  -- CLC, R704
  | .clc => Sys2Proof.Machine.execClc s
  -- SEC, R705
  | .sec => Sys2Proof.Machine.execSec s
  -- CLD, R706
  | .cld => Sys2Proof.Machine.execCld s
  -- SED, R707
  | .sed => Sys2Proof.Machine.execSed s
  -- CLI, R708
  | .cli => Sys2Proof.Machine.execCli s
  -- SEI, R709
  | .sei => Sys2Proof.Machine.execSei s
  -- CLV, R710
  | .clv => Sys2Proof.Machine.execClv s
  -- NOP, R711
  | .nop => Sys2Proof.Machine.execNop s

end Sys2Proof.Machine
end

