-- ==== Sys2Proof/Decode.lean ====
section
/-! DEFINITION. The decoder, total on any bytes, written from the opcode map of 30_encoding.md R304, and
the encoder, written from the encoding lists of the instruction rules (R501 to R711). -/

namespace Sys2Proof

/-- One cell of the opcode map (30_encoding.md R304), with the operand bytes its mode takes (R301). -/
inductive OpcodeCell where
  /-- `·`: not implemented (R306). -/
  | no
  /-- No operand byte. -/
  | op0 (i : Instr)
  /-- One operand byte, at PC+1. -/
  | op1 (f : Byte → Instr)
  /-- Two operand bytes, at PC+1 and PC+2. -/
  | op2 (f : Byte → Byte → Instr)
  /-- Two operand bytes, of which the sequence itself reads the second after other cycles: JSR
  (45_control.md R661). -/
  | op2late (f : Byte → Byte → Instr)

/-- Row `hi` of the opcode map, its cells for the low nibbles 0 to F (30_encoding.md R304). -/
def opcodeRow (hi : Nat) : List OpcodeCell :=
  match hi with
  | 0x0 =>
    [.op0 .brk, .op1 .oraIzx, .no, .no, .no, .op1 .oraZp, .op1 .aslZp, .no, .op0 .php, .op1 .oraImm,
     .op0 .aslAcc, .no, .no, .op2 .oraAbs, .op2 .aslAbs, .no]
  | 0x1 =>
    [.op1 .bplRel, .op1 .oraIzy, .no, .no, .no, .op1 .oraZpx, .op1 .aslZpx, .no, .op0 .clc,
     .op2 .oraAbsy, .no, .no, .no, .op2 .oraAbsx, .op2 .aslAbsx, .no]
  | 0x2 =>
    [.op2late .jsrAbs, .op1 .andIzx, .no, .no, .op1 .bitZp, .op1 .andZp, .op1 .rolZp, .no, .op0 .plp,
     .op1 .andImm, .op0 .rolAcc, .no, .op2 .bitAbs, .op2 .andAbs, .op2 .rolAbs, .no]
  | 0x3 =>
    [.op1 .bmiRel, .op1 .andIzy, .no, .no, .no, .op1 .andZpx, .op1 .rolZpx, .no, .op0 .sec,
     .op2 .andAbsy, .no, .no, .no, .op2 .andAbsx, .op2 .rolAbsx, .no]
  | 0x4 =>
    [.op0 .rti, .op1 .eorIzx, .no, .no, .no, .op1 .eorZp, .op1 .lsrZp, .no, .op0 .pha, .op1 .eorImm,
     .op0 .lsrAcc, .no, .op2 .jmpAbs, .op2 .eorAbs, .op2 .lsrAbs, .no]
  | 0x5 =>
    [.op1 .bvcRel, .op1 .eorIzy, .no, .no, .no, .op1 .eorZpx, .op1 .lsrZpx, .no, .op0 .cli,
     .op2 .eorAbsy, .no, .no, .no, .op2 .eorAbsx, .op2 .lsrAbsx, .no]
  | 0x6 =>
    [.op0 .rts, .op1 .adcIzx, .no, .no, .no, .op1 .adcZp, .op1 .rorZp, .no, .op0 .pla, .op1 .adcImm,
     .op0 .rorAcc, .no, .op2 .jmpInd, .op2 .adcAbs, .op2 .rorAbs, .no]
  | 0x7 =>
    [.op1 .bvsRel, .op1 .adcIzy, .no, .no, .no, .op1 .adcZpx, .op1 .rorZpx, .no, .op0 .sei,
     .op2 .adcAbsy, .no, .no, .no, .op2 .adcAbsx, .op2 .rorAbsx, .no]
  | 0x8 =>
    [.no, .op1 .staIzx, .no, .no, .op1 .styZp, .op1 .staZp, .op1 .stxZp, .no, .op0 .dey, .no,
     .op0 .txa, .no, .op2 .styAbs, .op2 .staAbs, .op2 .stxAbs, .no]
  | 0x9 =>
    [.op1 .bccRel, .op1 .staIzy, .no, .no, .op1 .styZpx, .op1 .staZpx, .op1 .stxZpy, .no, .op0 .tya,
     .op2 .staAbsy, .op0 .txs, .no, .no, .op2 .staAbsx, .no, .no]
  | 0xA =>
    [.op1 .ldyImm, .op1 .ldaIzx, .op1 .ldxImm, .no, .op1 .ldyZp, .op1 .ldaZp, .op1 .ldxZp, .no,
     .op0 .tay, .op1 .ldaImm, .op0 .tax, .no, .op2 .ldyAbs, .op2 .ldaAbs, .op2 .ldxAbs, .no]
  | 0xB =>
    [.op1 .bcsRel, .op1 .ldaIzy, .no, .no, .op1 .ldyZpx, .op1 .ldaZpx, .op1 .ldxZpy, .no, .op0 .clv,
     .op2 .ldaAbsy, .op0 .tsx, .no, .op2 .ldyAbsx, .op2 .ldaAbsx, .op2 .ldxAbsy, .no]
  | 0xC =>
    [.op1 .cpyImm, .op1 .cmpIzx, .no, .no, .op1 .cpyZp, .op1 .cmpZp, .op1 .decZp, .no, .op0 .iny,
     .op1 .cmpImm, .op0 .dex, .no, .op2 .cpyAbs, .op2 .cmpAbs, .op2 .decAbs, .no]
  | 0xD =>
    [.op1 .bneRel, .op1 .cmpIzy, .no, .no, .no, .op1 .cmpZpx, .op1 .decZpx, .no, .op0 .cld,
     .op2 .cmpAbsy, .no, .no, .no, .op2 .cmpAbsx, .op2 .decAbsx, .no]
  | 0xE =>
    [.op1 .cpxImm, .op1 .sbcIzx, .no, .no, .op1 .cpxZp, .op1 .sbcZp, .op1 .incZp, .no, .op0 .inx,
     .op1 .sbcImm, .op0 .nop, .no, .op2 .cpxAbs, .op2 .sbcAbs, .op2 .incAbs, .no]
  | 0xF =>
    [.op1 .beqRel, .op1 .sbcIzy, .no, .no, .no, .op1 .sbcZpx, .op1 .incZpx, .no, .op0 .sed,
     .op2 .sbcAbsy, .no, .no, .no, .op2 .sbcAbsx, .op2 .incAbsx, .no]
  | _ => []

/-- The cell the opcode byte selects, by all eight bits (30_encoding.md R304). -/
def opcodeCell (op : Byte) : OpcodeCell :=
  match (opcodeRow (op.toNat / 16))[op.toNat % 16]? with
  | some c => c
  | none => .no

/-- Why bytes are no instruction. -/
inductive DecodeError where
  /-- There is no byte. -/
  | empty
  /-- The opcode is one of the 105 unimplemented values (30_encoding.md R306). -/
  | unimplementedOpcode (opcode : Byte)
  /-- The operand bytes of this opcode are missing. -/
  | truncated (opcode : Byte)
  deriving DecidableEq, Repr

/-- The instruction at the head of a list of bytes, and the bytes after it (30_encoding.md R300: the
opcode byte alone fixes the length). -/
def decode (bytes : List Byte) : Except DecodeError (Instr × List Byte) :=
  match bytes with
  | [] => .error .empty
  | op :: rest =>
    match opcodeCell op with
    | .no => .error (.unimplementedOpcode op)
    | .op0 i => .ok (i, rest)
    | .op1 f =>
      match rest with
      | b1 :: rest => .ok (f b1, rest)
      | [] => .error (.truncated op)
    | .op2 f | .op2late f =>
      match rest with
      | b1 :: b2 :: rest => .ok (f b1 b2, rest)
      | _ => .error (.truncated op)

/-- The bytes of an instruction, opcode first (30_encoding.md R301; the Encoding line of each
instruction's rule). -/
def encode (i : Instr) : List Byte :=
  match i with
  -- LDA, R501
  | .ldaImm b1 => [0xA9, b1]
  | .ldaZp b1 => [0xA5, b1]
  | .ldaZpx b1 => [0xB5, b1]
  | .ldaAbs b1 b2 => [0xAD, b1, b2]
  | .ldaAbsx b1 b2 => [0xBD, b1, b2]
  | .ldaAbsy b1 b2 => [0xB9, b1, b2]
  | .ldaIzx b1 => [0xA1, b1]
  | .ldaIzy b1 => [0xB1, b1]
  -- LDX, R502
  | .ldxImm b1 => [0xA2, b1]
  | .ldxZp b1 => [0xA6, b1]
  | .ldxZpy b1 => [0xB6, b1]
  | .ldxAbs b1 b2 => [0xAE, b1, b2]
  | .ldxAbsy b1 b2 => [0xBE, b1, b2]
  -- LDY, R503
  | .ldyImm b1 => [0xA0, b1]
  | .ldyZp b1 => [0xA4, b1]
  | .ldyZpx b1 => [0xB4, b1]
  | .ldyAbs b1 b2 => [0xAC, b1, b2]
  | .ldyAbsx b1 b2 => [0xBC, b1, b2]
  -- STA, R504
  | .staZp b1 => [0x85, b1]
  | .staZpx b1 => [0x95, b1]
  | .staAbs b1 b2 => [0x8D, b1, b2]
  | .staAbsx b1 b2 => [0x9D, b1, b2]
  | .staAbsy b1 b2 => [0x99, b1, b2]
  | .staIzx b1 => [0x81, b1]
  | .staIzy b1 => [0x91, b1]
  -- STX, R505
  | .stxZp b1 => [0x86, b1]
  | .stxZpy b1 => [0x96, b1]
  | .stxAbs b1 b2 => [0x8E, b1, b2]
  -- STY, R506
  | .styZp b1 => [0x84, b1]
  | .styZpx b1 => [0x94, b1]
  | .styAbs b1 b2 => [0x8C, b1, b2]
  -- TAX, R507
  | .tax => [0xAA]
  -- TAY, R508
  | .tay => [0xA8]
  -- TSX, R509
  | .tsx => [0xBA]
  -- TXA, R510
  | .txa => [0x8A]
  -- TXS, R511
  | .txs => [0x9A]
  -- TYA, R512
  | .tya => [0x98]
  -- ADC, R551
  | .adcImm b1 => [0x69, b1]
  | .adcZp b1 => [0x65, b1]
  | .adcZpx b1 => [0x75, b1]
  | .adcAbs b1 b2 => [0x6D, b1, b2]
  | .adcAbsx b1 b2 => [0x7D, b1, b2]
  | .adcAbsy b1 b2 => [0x79, b1, b2]
  | .adcIzx b1 => [0x61, b1]
  | .adcIzy b1 => [0x71, b1]
  -- SBC, R553
  | .sbcImm b1 => [0xE9, b1]
  | .sbcZp b1 => [0xE5, b1]
  | .sbcZpx b1 => [0xF5, b1]
  | .sbcAbs b1 b2 => [0xED, b1, b2]
  | .sbcAbsx b1 b2 => [0xFD, b1, b2]
  | .sbcAbsy b1 b2 => [0xF9, b1, b2]
  | .sbcIzx b1 => [0xE1, b1]
  | .sbcIzy b1 => [0xF1, b1]
  -- CMP, R556
  | .cmpImm b1 => [0xC9, b1]
  | .cmpZp b1 => [0xC5, b1]
  | .cmpZpx b1 => [0xD5, b1]
  | .cmpAbs b1 b2 => [0xCD, b1, b2]
  | .cmpAbsx b1 b2 => [0xDD, b1, b2]
  | .cmpAbsy b1 b2 => [0xD9, b1, b2]
  | .cmpIzx b1 => [0xC1, b1]
  | .cmpIzy b1 => [0xD1, b1]
  -- CPX, R557
  | .cpxImm b1 => [0xE0, b1]
  | .cpxZp b1 => [0xE4, b1]
  | .cpxAbs b1 b2 => [0xEC, b1, b2]
  -- CPY, R558
  | .cpyImm b1 => [0xC0, b1]
  | .cpyZp b1 => [0xC4, b1]
  | .cpyAbs b1 b2 => [0xCC, b1, b2]
  -- INC, R559
  | .incZp b1 => [0xE6, b1]
  | .incZpx b1 => [0xF6, b1]
  | .incAbs b1 b2 => [0xEE, b1, b2]
  | .incAbsx b1 b2 => [0xFE, b1, b2]
  -- DEC, R560
  | .decZp b1 => [0xC6, b1]
  | .decZpx b1 => [0xD6, b1]
  | .decAbs b1 b2 => [0xCE, b1, b2]
  | .decAbsx b1 b2 => [0xDE, b1, b2]
  -- INX, R561
  | .inx => [0xE8]
  -- INY, R562
  | .iny => [0xC8]
  -- DEX, R563
  | .dex => [0xCA]
  -- DEY, R564
  | .dey => [0x88]
  -- AND, R600
  | .andImm b1 => [0x29, b1]
  | .andZp b1 => [0x25, b1]
  | .andZpx b1 => [0x35, b1]
  | .andAbs b1 b2 => [0x2D, b1, b2]
  | .andAbsx b1 b2 => [0x3D, b1, b2]
  | .andAbsy b1 b2 => [0x39, b1, b2]
  | .andIzx b1 => [0x21, b1]
  | .andIzy b1 => [0x31, b1]
  -- ORA, R601
  | .oraImm b1 => [0x09, b1]
  | .oraZp b1 => [0x05, b1]
  | .oraZpx b1 => [0x15, b1]
  | .oraAbs b1 b2 => [0x0D, b1, b2]
  | .oraAbsx b1 b2 => [0x1D, b1, b2]
  | .oraAbsy b1 b2 => [0x19, b1, b2]
  | .oraIzx b1 => [0x01, b1]
  | .oraIzy b1 => [0x11, b1]
  -- EOR, R602
  | .eorImm b1 => [0x49, b1]
  | .eorZp b1 => [0x45, b1]
  | .eorZpx b1 => [0x55, b1]
  | .eorAbs b1 b2 => [0x4D, b1, b2]
  | .eorAbsx b1 b2 => [0x5D, b1, b2]
  | .eorAbsy b1 b2 => [0x59, b1, b2]
  | .eorIzx b1 => [0x41, b1]
  | .eorIzy b1 => [0x51, b1]
  -- BIT, R603
  | .bitZp b1 => [0x24, b1]
  | .bitAbs b1 b2 => [0x2C, b1, b2]
  -- ASL, R604
  | .aslAcc => [0x0A]
  | .aslZp b1 => [0x06, b1]
  | .aslZpx b1 => [0x16, b1]
  | .aslAbs b1 b2 => [0x0E, b1, b2]
  | .aslAbsx b1 b2 => [0x1E, b1, b2]
  -- LSR, R605
  | .lsrAcc => [0x4A]
  | .lsrZp b1 => [0x46, b1]
  | .lsrZpx b1 => [0x56, b1]
  | .lsrAbs b1 b2 => [0x4E, b1, b2]
  | .lsrAbsx b1 b2 => [0x5E, b1, b2]
  -- ROL, R606
  | .rolAcc => [0x2A]
  | .rolZp b1 => [0x26, b1]
  | .rolZpx b1 => [0x36, b1]
  | .rolAbs b1 b2 => [0x2E, b1, b2]
  | .rolAbsx b1 b2 => [0x3E, b1, b2]
  -- ROR, R607
  | .rorAcc => [0x6A]
  | .rorZp b1 => [0x66, b1]
  | .rorZpx b1 => [0x76, b1]
  | .rorAbs b1 b2 => [0x6E, b1, b2]
  | .rorAbsx b1 b2 => [0x7E, b1, b2]
  -- BPL, R651
  | .bplRel b1 => [0x10, b1]
  -- BMI, R652
  | .bmiRel b1 => [0x30, b1]
  -- BVC, R653
  | .bvcRel b1 => [0x50, b1]
  -- BVS, R654
  | .bvsRel b1 => [0x70, b1]
  -- BCC, R655
  | .bccRel b1 => [0x90, b1]
  -- BCS, R656
  | .bcsRel b1 => [0xB0, b1]
  -- BNE, R657
  | .bneRel b1 => [0xD0, b1]
  -- BEQ, R658
  | .beqRel b1 => [0xF0, b1]
  -- JMP, R659
  | .jmpAbs b1 b2 => [0x4C, b1, b2]
  | .jmpInd b1 b2 => [0x6C, b1, b2]
  -- JSR, R661
  | .jsrAbs b1 b2 => [0x20, b1, b2]
  -- RTS, R662
  | .rts => [0x60]
  -- BRK, R664
  | .brk => [0x00]
  -- RTI, R665
  | .rti => [0x40]
  -- PHA, R700
  | .pha => [0x48]
  -- PHP, R701
  | .php => [0x08]
  -- PLA, R702
  | .pla => [0x68]
  -- PLP, R703
  | .plp => [0x28]
  -- CLC, R704
  | .clc => [0x18]
  -- SEC, R705
  | .sec => [0x38]
  -- CLD, R706
  | .cld => [0xD8]
  -- SED, R707
  | .sed => [0xF8]
  -- CLI, R708
  | .cli => [0x58]
  -- SEI, R709
  | .sei => [0x78]
  -- CLV, R710
  | .clv => [0xB8]
  -- NOP, R711
  | .nop => [0xEA]

/-- The number of bytes of an instruction (30_encoding.md R301). -/
def Instr.length (i : Instr) : Nat := (encode i).length

/-- The three bytes at consecutive addresses of a number read as the opcode table numbers its bits: the
first byte is bits 7..0; bits from `nbits` up are 0. -/
def tableBytes (nbits w : Nat) : List Byte :=
  let w := w % 2 ^ nbits
  [BitVec.ofNat 8 w, BitVec.ofNat 8 (w / 256), BitVec.ofNat 8 (w / 65536)]

/-- The instruction the decoder reads from an opcode-table word, its operand bytes beyond `nbits` zero. -/
def decodeTableWord (nbits w : Nat) : Option Instr :=
  match decode (tableBytes nbits w) with
  | .ok (i, _) => some i
  | .error _ => none

end Sys2Proof
end

