-- ==== Sys2Proof/Machine/Fetch.lean ====
section
/-! DEFINITION. The fetch of an instruction's bytes, one bus cycle each (40_cycle_engine.md R410;
41_addressing_pipeline.md). -/

namespace Sys2Proof.Machine

/-- What a fetch answers: an instruction with its operand bytes fetched, or an unimplemented opcode that the
policy runs as a no-op. -/
inductive Fetched where
  | instr (i : Instr)
  | unimplemented (opcode : Byte) (fetchedAt : Word)
  deriving DecidableEq, Repr

/-- The fetch of one operand byte: a read at PC, PC + 1. -/
def fetchOperand : M Byte := do
  let g ← getRegs
  let b ← readCycle g.pc
  incPc
  return b

/-- The fault of an unimplemented opcode under policy `Halt`, at the end of cycle 1 (40_cycle_engine.md
R410). -/
def raiseUnimplemented (op : Byte) (fetchedAt : Word) : M Unit := fun r =>
  if r.m.params.policy = .halt then .error (.unimplementedOpcode op fetchedAt) r else .ok () r

/-- The byte a read would return now, looked at without a cycle. -/
def glanceAt (a : Word) : M Byte := fun r => .ok (r.m.bus.glance a) r

/-- Cycle 1, and the cycles that fetch the operand bytes. An unimplemented opcode under `Halt` ends the tick
before the devices tick (R401). JSR's second operand byte is not fetched here: it is looked at, to
name the instruction, and its sequence reads it in cycle 6 (45_control.md R661; log 6). -/
def fetchInstr : M Fetched := do
  let g ← getRegs
  let op ← readAccess g.pc
  latchIr (.opcode op)
  incPc
  match opcodeCell op with
  | .no =>
    raiseUnimplemented op g.pc
    tickDevices
    return .unimplemented op g.pc
  | .op0 i =>
    tickDevices
    return .instr i
  | .op1 f =>
    tickDevices
    let b1 ← fetchOperand
    return .instr (f b1)
  | .op2 f =>
    tickDevices
    let b1 ← fetchOperand
    let b2 ← fetchOperand
    return .instr (f b1 b2)
  | .op2late f =>
    tickDevices
    let b1 ← fetchOperand
    let h ← getRegs
    let b2 ← glanceAt h.pc
    return .instr (f b1 b2)

end Sys2Proof.Machine
end

