-- ==== Sys2Proof/Machine/Interrupt.lean ====
section
/-! DEFINITION. The interrupt decision and the service sequence (60_exceptions.md sections 2 and 3). -/

namespace Sys2Proof.Machine

/-- An NMI edge: the line is asserted now and was not at the previous sample (R812, R813). -/
def State.nmiEdge (s : State) : Bool := s.bus.lines.nmi.asserted && !s.nmiPrev

/-- An IRQ that I does not mask (R811, R813). -/
def State.irqPending (s : State) : Bool := s.bus.lines.irq.asserted && !s.regs.i

/-- What the boundary sample decides: NMI before IRQ (R813, R816). -/
def State.pendingService (s : State) : Option ServiceKind :=
  if s.nmiEdge then some .nmi
  else if s.irqPending then some .irq
  else none

/-- The level the boundary sample leaves in nmi_prev (R813). -/
def Run.sampled (r : Run) : Run :=
  { r with m := { r.m with nmiPrev := r.m.bus.lines.nmi.asserted } }

/-- The vector of a service (60_exceptions.md R821). -/
def ServiceKind.vector (k : ServiceKind) : Word :=
  match k with
  | .nmi => nmiVector
  | .irq => irqVector

/-- The vector IR selects (10_state.md R123). -/
def Ir.vector (ir : Ir) : Word :=
  match ir with
  | .service k => k.vector
  | .opcode _ => irqVector

/-- The service sequence: two discarded reads at PC, then interrupt entry with B = 0 (60_exceptions.md R821,
R822). -/
def serviceSequence (k : ServiceKind) : M Unit := do
  latchIr (.service k)
  let g ← getRegs
  dummyRead g.pc
  dummyRead g.pc
  let l ← getLatches
  interruptEntry false l.ir.vector

end Sys2Proof.Machine
end

