-- ==== Sys2Proof/Machine/Boundary.lean ====
section
/-! DEFINITION. What a step does from a boundary on (40_cycle_engine.md R407, R420-R424). -/

namespace Sys2Proof.Machine

/-- A step with the Machine halted: no tick, no change, the recorded fault again (R423). -/
def State.answerAgain (s : State) (report : FaultReport) : StepOutcome :=
  .fault (report.kind.toFault s)

/-- An instruction sequence from its opcode fetch on. -/
def runInstruction (r : Run) : StepOutcome :=
  match fetchInstr r with
  | .error k r => .fault (k.toFault (r.halt k))
  | .ok (.instr i) r => exec i r.leave
  | .ok (.unimplemented op pc) r => runFrom (substituteNop op pc) r

/-- One CPU sequence: the boundary sample, then the service it chooses or an instruction (R407, R420,
R421). -/
def runSequence (s : State) : StepOutcome :=
  match s.pendingService with
  | some k => runFrom (serviceSequence k) s.enter.sampled
  | none => runInstruction s.enter.sampled

end Sys2Proof.Machine
end

