-- ==== Sys2Proof/Machine/Step.lean ====
section
/-! DEFINITION. One step of the Machine, and a program word put where it is fetched next. -/

namespace Sys2Proof.Machine

/-- `step()` (40_cycle_engine.md R420): one full instruction or one interrupt service; the recorded fault
again if the Machine is halted (R423). -/
def step (s : State) : Host.Outcome State Fault Refusal :=
  match s.phase with
  | .halted report => s.answerAgain report
  | .configuring => runSequence s
  | .running => runSequence s

/-- A bus with bytes put into the memory cells from an address on. -/
def Bus.pokeFrom (b : Bus) (a : Word) (bytes : List Byte) : Bus :=
  match bytes with
  | [] => b
  | v :: rest => Bus.pokeFrom (b.poke a v) (a + 1) rest

/-- The bus of `State.reset`: one RAM over the whole address space, with nothing listed, lines idle. -/
def Bus.plain : Bus := State.reset.bus

/-- The machine with an opcode-table word stored where `step` fetches its next instruction (log 10): its
bytes in the memory at PC, the sequencer at a boundary, the Machine not halted, no interrupt waiting to
be serviced first. Where no RAM or ROM answers at those addresses, they are put into `Bus.plain`. -/
def State.withFetchWord (s : State) (nbits w : Nat) : State :=
  let bytes := tableBytes nbits w
  let memoryAt (a : Word) : Bool := (s.bus.peek a).isSome
  let bus := if memoryAt s.regs.pc && memoryAt (s.regs.pc + 1) && memoryAt (s.regs.pc + 2)
    then s.bus else Bus.plain
  { s with
    seq := .boundary
    phase := (match s.phase with | .halted _ => .running | p => p)
    bus := { bus.pokeFrom s.regs.pc bytes with
      lines := if s.pendingService.isSome then .idle else s.bus.lines } }

end Sys2Proof.Machine
end

