-- ==== Sys2Proof/Machine/HostOps.lean ====
section
/-! DEFINITION. The host operations (40_cycle_engine.md R430), beside `step`. -/

namespace Sys2Proof.Machine

/-! ### Construction and attach (20_memory.md R203, R204; 60_exceptions.md R800; 70_reset_and_hazards.md R904) -/

/-- The register file at construction (R904). -/
def Params.startRegs (p : Params) : Regs :=
  { a := p.resetA, x := p.resetX, y := p.resetY, s := 0xFD, pc := 0x0000
    n := false, v := false, d := false, i := true, z := false, c := false }

/-- `construct()` (R904). -/
def construct (p : Params) : State where
  regs := Params.startRegs p
  nmiPrev := false
  seq := .boundary
  bus := ⟨[], [], .idle⟩
  cycles := 0
  phase := .configuring
  params := p
  trace := []
  result := ⟨0, []⟩

/-- The device an attach names: one not attached yet, or one already in the tick list (a mirror, R204). -/
inductive AttachTarget where
  | new (d : Device)
  | existing (place : Nat)
  deriving DecidableEq, Repr

/-- The tick list, and the target's place in it: a new device goes to the end (10_state.md R142). -/
def AttachTarget.place (t : AttachTarget) (devices : List Device) : List Device × Nat :=
  match t with
  | .new d => (devices ++ [d], devices.length)
  | .existing n => (devices, n)

/-- The range of an entry that a range overlaps, if there is one. DESIGN CHOICE, log 19: where it overlaps several,
the spec does not say which one is recorded (60_exceptions.md R800); it is the first in attach order. -/
def overlapped (map : List MapEntry) (r : Range) : Option Range :=
  (map.find? (fun e => r.overlaps e.range)).map MapEntry.range

/-- Whether the target exists, is a device as the spec allows, and declares all of the range (log 9). DESIGN CHOICE,
log 22: a device's declared range starts at local address 0, which the spec says of no device but the reference
RAM and ROM. -/
def AttachTarget.accepts (t : AttachTarget) (devices : List Device) (r : Range) : Bool :=
  let (devices, n) := t.place devices
  match devices[n]? with
  | some d => d.wf && decide (r.offset.toNat + r.length ≤ d.size)
  | none => false

/-- `attach_device(range, device)` (R203, R204, R800). -/
def attach (s : State) (r : Range) (t : AttachTarget) : StepOutcome :=
  match s.phase with
  | .running => .refused .notConfiguring
  | .halted _ => .refused .notConfiguring
  | .configuring =>
    let q := overlapped s.bus.map r
    if r.wf = false ∨ q.isSome then .fault (.rangeConflict r q)
    else if t.accepts s.bus.devices r then
      let (devices, n) := t.place s.bus.devices
      .next { s with bus := { s.bus with map := s.bus.map ++ [⟨r, n⟩], devices := devices } }
    else .refused .contractViolation

/-- The attaches of `build`, in order, the first failure ending it (60_exceptions.md R800). -/
def attachAll (s : State) (entries : List (Range × AttachTarget)) : StepOutcome :=
  match entries with
  | [] => .next s
  | (r, t) :: rest =>
    match attach s r t with
    | .next s => attachAll s rest
    | .fault f => .fault f
    | .refused f => .refused f

/-- `build(entries)` (R800, R904). -/
def build (p : Params) (entries : List (Range × AttachTarget)) : StepOutcome :=
  attachAll (construct p) entries

/-! ### Address Map accesses (20_memory.md R207) -/

/-- The host's map read: one device access, no tick. A fault changes nothing (60_exceptions.md R801). -/
def hostRead (s : State) (a : Word) : Host.Outcome (Byte × State) Fault Refusal :=
  match s.phase with
  | .halted _ => .refused .machineHalted
  | _ =>
    match s.bus.read a with
    | some (v, b) => .next (v, { s with bus := b })
    | none => .fault (.unmappedAccess a .read s)

/-- The host's map write. -/
def hostWrite (s : State) (a : Word) (v : Byte) : StepOutcome :=
  match s.phase with
  | .halted _ => .refused .machineHalted
  | _ =>
    match s.bus.write a v with
    | some b => .next { s with bus := b }
    | none => .fault (.unmappedAccess a .write s)

/-! ### Reset (70_reset_and_hazards.md R900-R906) -/

/-- `Halted` goes to `Running`; the other phases are kept (R900). -/
def Phase.afterReset (p : Phase) : Phase :=
  match p with
  | .halted _ => .running
  | .configuring => .configuring
  | .running => .running

/-- What reset assigns before it reads the vector, PC as R902 leaves it. -/
def State.resetRegs (s : State) : State :=
  { s with
    regs := Params.startRegs s.params
    nmiPrev := false
    seq := .boundary
    cycles := 0
    phase := s.phase.afterReset }

/-- Reset with an unmapped vector byte (R902). -/
def State.resetFault (s : State) (a : Word) : StepOutcome :=
  .fault (.unmappedAccess a .read { s with phase := .halted ⟨.unmappedAccess a .read, 0x0000, 0, 0⟩ })

/-- `reset()` (R900-R902): no tick, and two reads made as host reads. -/
def resetMachine (s : State) : StepOutcome :=
  let s := s.resetRegs
  match s.bus.read resetVector with
  | none => s.resetFault resetVector
  | some (lo, b) =>
    let s := { s with bus := b }
    match b.read (resetVector + 1) with
    | none => s.resetFault (resetVector + 1)
    | some (hi, b) => .next { s with bus := b, regs := { s.regs with pc := word hi lo } }

/-! ### Registers, introspection and lines (10_state.md R150; 40_cycle_engine.md R432, R433) -/

/-- The register load (R432): the registers and flags set to given values, no tick, no bus access. -/
def loadRegs (s : State) (g : Regs) : StepOutcome :=
  match s.phase with
  | .halted _ => .refused .machineHalted
  | _ => .next { s with regs := g, seq := .boundary }

/-- The introspection view (R150). -/
structure View where
  regs   : Regs
  p      : Byte
  cycles : Nat
  phase  : Phase
  deriving DecidableEq, Repr

/-- The view of a machine; its status byte is `P_byte(1)`, its fault report the phase's. -/
def State.view (s : State) : View := ⟨s.regs, s.regs.pByte true, s.cycles, s.phase⟩

/-- The host asserts or deasserts a line as the source `HOST` (R433). -/
def setHostLine (s : State) (line : ServiceKind) (asserted : Bool) : State :=
  let l := s.bus.lines
  let l := match line with
    | .nmi => { l with nmi := { l.nmi with host := asserted } }
    | .irq => { l with irq := { l.irq with host := asserted } }
  { s with bus := { s.bus with lines := l } }

/-! ### Runs (40_cycle_engine.md R425) -/

/-- What `run_until` returns, with the machine it leaves. -/
inductive RunResult where
  | satisfied (used : Nat) (s : State)
  | budgetExhausted (used : Nat) (s : State)
  | stopped (f : Fault) (used : Nat)
  deriving DecidableEq, Repr

/-- The cycles a faulting step spent: those of the report it leaves (60_exceptions.md R806). -/
def Fault.cyclesInStep (f : Fault) : Nat :=
  match f with
  | .rangeConflict _ _ => 0
  | .unmappedAccess _ _ s | .unimplementedOpcode _ _ s =>
    match s.phase with
    | .halted report => report.cyclesInStep
    | _ => 0

/-- The loop of `run_until`. Every step takes a cycle or more, so `fuel` past the budget is never used up (log 17).
DESIGN CHOICE, log 21: while Halted, the predicate and the budget are still looked at first, as in R425's
pseudocode, where 60_exceptions.md R806 says only that `run_until()` returns the report again. -/
def runLoop (pred : View → Bool) (budget : Nat) (fuel : Nat) (used : Nat) (s : State) : RunResult :=
  match fuel with
  | 0 => .budgetExhausted used s
  | fuel + 1 =>
    if pred s.view then .satisfied used s
    else if used ≥ budget then .budgetExhausted used s
    else
      match step s with
      | .next t => runLoop pred budget fuel (used + t.result.cycles) t
      | .fault f => .stopped f (used + f.cyclesInStep)
      | .refused _ => .budgetExhausted used s

/-- `run_until(pred, budget)` (R425): the predicate and the budget are checked at boundaries only. -/
def runUntil (pred : View → Bool) (budget : Nat) (s : State) : RunResult :=
  runLoop pred budget (budget + 1) 0 s

/-- The code of a fault kind (60_exceptions.md R800-R802). -/
def Fault.code (f : Fault) : Nat :=
  match f with
  | .rangeConflict _ _ => 1
  | .unmappedAccess _ _ _ => 2
  | .unimplementedOpcode _ _ _ => 3

end Sys2Proof.Machine
end

