-- ==== Sys2Proof/Machine/Table.lean ====
section
/-! DEFINITION. The columns of spec/opcode_table.json that say what to expect of an instruction: its
mnemonic, base cycle count and extra cycles (41_addressing_pipeline.md R490; 70_reset_and_hazards.md R931). No
meaning reads them: the cycles of a meaning are the bus cycles it makes. -/

namespace Sys2Proof.Machine

/-- The 56 mnemonics (00_scope.md R2). -/
inductive Mnemonic where
  | lda | ldx | ldy | sta | stx | sty | tax | tay | tsx | txa | txs | tya
  | adc | sbc | cmp | cpx | cpy | inc | dec | inx | iny | dex | dey | and
  | ora | eor | bit | asl | lsr | rol | ror | bpl | bmi | bvc | bvs | bcc
  | bcs | bne | beq | jmp | jsr | rts | brk | rti | pha | php | pla | plp
  | clc | sec | cld | sed | cli | sei | clv | nop
  deriving DecidableEq, Repr

/-- An instruction's mnemonic, as the opcode table gives it. -/
def mnemonic (i : Instr) : Mnemonic :=
  match i with
  | .ldaImm _ | .ldaZp _ | .ldaZpx _ | .ldaAbs _ _
  | .ldaAbsx _ _ | .ldaAbsy _ _ | .ldaIzx _ | .ldaIzy _ => .lda
  | .ldxImm _ | .ldxZp _ | .ldxZpy _ | .ldxAbs _ _ | .ldxAbsy _ _ => .ldx
  | .ldyImm _ | .ldyZp _ | .ldyZpx _ | .ldyAbs _ _ | .ldyAbsx _ _ => .ldy
  | .staZp _ | .staZpx _ | .staAbs _ _ | .staAbsx _ _ | .staAbsy _ _ | .staIzx _ | .staIzy _ => .sta
  | .stxZp _ | .stxZpy _ | .stxAbs _ _ => .stx
  | .styZp _ | .styZpx _ | .styAbs _ _ => .sty
  | .tax => .tax
  | .tay => .tay
  | .tsx => .tsx
  | .txa => .txa
  | .txs => .txs
  | .tya => .tya
  | .adcImm _ | .adcZp _ | .adcZpx _ | .adcAbs _ _
  | .adcAbsx _ _ | .adcAbsy _ _ | .adcIzx _ | .adcIzy _ => .adc
  | .sbcImm _ | .sbcZp _ | .sbcZpx _ | .sbcAbs _ _
  | .sbcAbsx _ _ | .sbcAbsy _ _ | .sbcIzx _ | .sbcIzy _ => .sbc
  | .cmpImm _ | .cmpZp _ | .cmpZpx _ | .cmpAbs _ _
  | .cmpAbsx _ _ | .cmpAbsy _ _ | .cmpIzx _ | .cmpIzy _ => .cmp
  | .cpxImm _ | .cpxZp _ | .cpxAbs _ _ => .cpx
  | .cpyImm _ | .cpyZp _ | .cpyAbs _ _ => .cpy
  | .incZp _ | .incZpx _ | .incAbs _ _ | .incAbsx _ _ => .inc
  | .decZp _ | .decZpx _ | .decAbs _ _ | .decAbsx _ _ => .dec
  | .inx => .inx
  | .iny => .iny
  | .dex => .dex
  | .dey => .dey
  | .andImm _ | .andZp _ | .andZpx _ | .andAbs _ _
  | .andAbsx _ _ | .andAbsy _ _ | .andIzx _ | .andIzy _ => .and
  | .oraImm _ | .oraZp _ | .oraZpx _ | .oraAbs _ _
  | .oraAbsx _ _ | .oraAbsy _ _ | .oraIzx _ | .oraIzy _ => .ora
  | .eorImm _ | .eorZp _ | .eorZpx _ | .eorAbs _ _
  | .eorAbsx _ _ | .eorAbsy _ _ | .eorIzx _ | .eorIzy _ => .eor
  | .bitZp _ | .bitAbs _ _ => .bit
  | .aslAcc | .aslZp _ | .aslZpx _ | .aslAbs _ _ | .aslAbsx _ _ => .asl
  | .lsrAcc | .lsrZp _ | .lsrZpx _ | .lsrAbs _ _ | .lsrAbsx _ _ => .lsr
  | .rolAcc | .rolZp _ | .rolZpx _ | .rolAbs _ _ | .rolAbsx _ _ => .rol
  | .rorAcc | .rorZp _ | .rorZpx _ | .rorAbs _ _ | .rorAbsx _ _ => .ror
  | .bplRel _ => .bpl
  | .bmiRel _ => .bmi
  | .bvcRel _ => .bvc
  | .bvsRel _ => .bvs
  | .bccRel _ => .bcc
  | .bcsRel _ => .bcs
  | .bneRel _ => .bne
  | .beqRel _ => .beq
  | .jmpAbs _ _ | .jmpInd _ _ => .jmp
  | .jsrAbs _ _ => .jsr
  | .rts => .rts
  | .brk => .brk
  | .rti => .rti
  | .pha => .pha
  | .php => .php
  | .pla => .pla
  | .plp => .plp
  | .clc => .clc
  | .sec => .sec
  | .cld => .cld
  | .sed => .sed
  | .cli => .cli
  | .sei => .sei
  | .clv => .clv
  | .nop => .nop

/-- Row `hi` of the base cycle counts, laid out as the opcode map of 30_encoding.md R304; 0 where there is no
instruction. -/
def baseCyclesRow (hi : Nat) : List Nat :=
  match hi with
  | 0x0 => [7, 6, 0, 0, 0, 3, 5, 0, 3, 2, 2, 0, 0, 4, 6, 0]
  | 0x1 => [2, 5, 0, 0, 0, 4, 6, 0, 2, 4, 0, 0, 0, 4, 7, 0]
  | 0x2 => [6, 6, 0, 0, 3, 3, 5, 0, 4, 2, 2, 0, 4, 4, 6, 0]
  | 0x3 => [2, 5, 0, 0, 0, 4, 6, 0, 2, 4, 0, 0, 0, 4, 7, 0]
  | 0x4 => [6, 6, 0, 0, 0, 3, 5, 0, 3, 2, 2, 0, 3, 4, 6, 0]
  | 0x5 => [2, 5, 0, 0, 0, 4, 6, 0, 2, 4, 0, 0, 0, 4, 7, 0]
  | 0x6 => [6, 6, 0, 0, 0, 3, 5, 0, 4, 2, 2, 0, 5, 4, 6, 0]
  | 0x7 => [2, 5, 0, 0, 0, 4, 6, 0, 2, 4, 0, 0, 0, 4, 7, 0]
  | 0x8 => [0, 6, 0, 0, 3, 3, 3, 0, 2, 0, 2, 0, 4, 4, 4, 0]
  | 0x9 => [2, 6, 0, 0, 4, 4, 4, 0, 2, 5, 2, 0, 0, 5, 0, 0]
  | 0xA => [2, 6, 2, 0, 3, 3, 3, 0, 2, 2, 2, 0, 4, 4, 4, 0]
  | 0xB => [2, 5, 0, 0, 4, 4, 4, 0, 2, 4, 2, 0, 4, 4, 4, 0]
  | 0xC => [2, 6, 0, 0, 3, 3, 5, 0, 2, 2, 2, 0, 4, 4, 6, 0]
  | 0xD => [2, 5, 0, 0, 0, 4, 6, 0, 2, 4, 0, 0, 0, 4, 7, 0]
  | 0xE => [2, 6, 0, 0, 3, 3, 5, 0, 2, 2, 2, 0, 4, 4, 6, 0]
  | 0xF => [2, 5, 0, 0, 0, 4, 6, 0, 2, 4, 0, 0, 0, 4, 7, 0]
  | _ => []

/-- The opcode byte of an instruction. -/
def opcodeOf (i : Instr) : Byte := (encode i).headD 0x00

/-- The base cycle count of an opcode (the table's `base_cycles`). -/
def baseCyclesAt (op : Byte) : Nat := ((baseCyclesRow (op.toNat / 16))[op.toNat % 16]?).getD 0

/-- The base cycle count of an instruction. -/
def baseCycles (i : Instr) : Nat := baseCyclesAt (opcodeOf i)

/-- The class R opcodes in absolute,X, absolute,Y or (zero page),Y: one cycle more on a page cross (the
table's `page_cross_extra`; 41_addressing_pipeline.md R491). -/
def pageCrossOpcodes : List Byte :=
  [0x11, 0x19, 0x1D, 0x31, 0x39, 0x3D, 0x51, 0x59, 0x5D, 0x71, 0x79, 0x7D,
   0xB1, 0xB9, 0xBC, 0xBD, 0xBE, 0xD1, 0xD9, 0xDD, 0xF1, 0xF9, 0xFD]

/-- Whether an instruction is a conditional branch (the table's `branch_extra`; 45_control.md R650). -/
def isBranch (i : Instr) : Bool :=
  match mnemonic i with
  | .bpl | .bmi | .bvc | .bvs | .bcc | .bcs | .bne | .beq => true
  | _ => false

/-- The most cycles an instruction takes beyond its base count (70_reset_and_hazards.md R931). -/
def maxExtraCycles (i : Instr) : Nat :=
  if isBranch i then 2 else if opcodeOf i ∈ pageCrossOpcodes then 1 else 0

/-- The cycles that fetch an instruction's bytes before `exec` runs it: one a byte, but JSR's last byte is read
by its own sequence (45_control.md R661; log 6, log 11). -/
def fetchCycles (i : Instr) : Nat :=
  match i with
  | .jsrAbs _ _ => 2
  | i => i.length

/-- Whether an instruction has a write cycle: the stores, the memory forms of the read-modify-write
instructions, the pushes, JSR and BRK (41_addressing_pipeline.md R450). -/
def writesMemory (i : Instr) : Bool :=
  match i with
  | .aslAcc | .lsrAcc | .rolAcc | .rorAcc => false
  | i =>
    match mnemonic i with
    | .sta | .stx | .sty | .inc | .dec | .asl | .lsr | .rol | .ror | .pha | .php | .jsr | .brk => true
    | _ => false

end Sys2Proof.Machine
end

