-- ==== Sys2Proof/Safety.lean ====
section
/-! DEFINITION. The terms claims are stated in: a list of bus cycles replayed on a bus, the state a sequence
leaves, what a machine between steps always satisfies, and what a safe step is. -/

namespace Sys2Proof.Machine

/-! ### Bus cycles -/

/-- A read cycle as it is observed. -/
def rd (a : Word) (v : Byte) : BusCycle := ⟨.read, a, v⟩

/-- A write cycle as it is observed. -/
def wr (a : Word) (v : Byte) : BusCycle := ⟨.write, a, v⟩

/-- The bus after a list of CPU bus cycles, each followed by the devices' ticks (20_memory.md R230, R231);
none if an address is unmapped or a read returns another byte than the list says. -/
def Bus.replay (b : Bus) (cycles : List BusCycle) : Option Bus :=
  match cycles with
  | [] => some b
  | c :: rest =>
    match c.access with
    | .read =>
      match b.read c.address with
      | some (v, b) => if v = c.value then b.tick.replay rest else none
      | none => none
    | .write =>
      match b.write c.address c.value with
      | some b => b.tick.replay rest
      | none => none

/-- The phase after the ticks of a list of cycles: the first tick moves `Configuring` to `Running`
(10_state.md R144). -/
def Phase.afterCycles (p : Phase) (cycles : List BusCycle) : Phase :=
  match cycles with
  | [] => p
  | _ :: _ => p.ticked

/-- The machine at the boundary after a sequence, or the rest of one, that made these bus cycles, left this
bus and these registers, and changed nothing else. -/
def State.after (s : State) (cycles : List BusCycle) (b : Bus) (g : Regs) : State :=
  { s with
    regs := g
    seq := .boundary
    bus := b
    cycles := s.cycles + cycles.length
    phase := s.phase.afterCycles cycles
    trace := s.enter.m.trace ++ cycles
    result := ⟨s.enter.q.done + cycles.length, s.enter.m.result.reports⟩ }

/-- The machine a CPU fault leaves, raised in the cycle after a sequence, or the rest of one, had made these
bus cycles and left this bus (60_exceptions.md R806): the registers, flags and nmi_prev of the start of
the step, the faulting cycle counted, the report, `Halted`. -/
def State.faulted (s : State) (cycles : List BusCycle) (b : Bus) (k : FaultKind) : State :=
  { s with
    regs := s.enter.q.startRegs
    nmiPrev := s.enter.q.startNmiPrev
    seq := .boundary
    bus := b
    cycles := s.cycles + cycles.length + 1
    phase := .halted ⟨k, s.enter.q.startRegs.pc, s.cycles + cycles.length + 1,
      s.enter.q.done + cycles.length + 1⟩
    trace := s.enter.m.trace ++ cycles
    result := ⟨s.enter.q.done + cycles.length + 1, []⟩ }

/-- Along the cycles `cs` from `s`, the first cycle at an unmapped address is the fault of `run`, and the cycles
before it are all that happens (42_load_store_transfer.md R500; 60_exceptions.md R801, R806). -/
def FaultsAlong (run : State → StepOutcome) (s : State) (cs : List BusCycle) : Prop :=
  ∀ n c b, cs[n]? = some c → s.bus.replay (cs.take n) = some b → b.mapped c.address = false →
    run s = .fault (.unmappedAccess c.address c.access
      (s.faulted (cs.take n) b (.unmappedAccess c.address c.access)))

/-- The reads of bytes at consecutive addresses, modulo 2^16 (30_encoding.md R300). -/
def fetchReads (pc : Word) (bytes : List Byte) : List BusCycle :=
  match bytes with
  | [] => []
  | v :: rest => rd pc v :: fetchReads (pc + 1) rest

/-- The machine inside the sequence of an instruction whose first bytes, at least the opcode, have been
fetched from a boundary: PC past them, nmi_prev the level of the boundary sample, nothing else of the
CPU changed. -/
def State.fetched (s : State) (op : Byte) (bytes : List Byte) (b : Bus) : State :=
  { s with
    regs := { s.regs with pc := s.regs.pc + BitVec.ofNat 16 bytes.length }
    nmiPrev := s.bus.lines.nmi.asserted
    seq := .inSequence ⟨bytes.length, { Latches.fresh with ir := .opcode op }, s.regs, s.nmiPrev⟩
    bus := b
    cycles := s.cycles + bytes.length
    phase := s.phase.ticked
    trace := fetchReads s.regs.pc bytes
    result := ⟨0, []⟩ }

/-- The machine at the boundary after a whole step that made these bus cycles, left this bus and these registers,
and reported nothing: nmi_prev is the level of the boundary sample (40_cycle_engine.md R420; 60_exceptions.md
R813). -/
def State.stepped (s : State) (cycles : List BusCycle) (b : Bus) (g : Regs) : State :=
  { s with
    regs := g
    nmiPrev := s.bus.lines.nmi.asserted
    seq := .boundary
    bus := b
    cycles := s.cycles + cycles.length
    phase := s.phase.ticked
    trace := cycles
    result := ⟨cycles.length, []⟩ }

/-- A machine whose next step runs an instruction: at a boundary, not halted, with no interrupt to service. -/
structure State.Ready (s : State) : Prop where
  boundary : s.seq = .boundary
  active   : ∀ r, s.phase ≠ .halted r
  quiet    : s.pendingService = none

/-! ### What holds between steps -/

/-- The longest sequence (40_cycle_engine.md R425). -/
def maxStepCycles : Nat := 7

/-- What a machine between steps satisfies: its map, memories and line sets are well-formed, the CPU is at a
boundary, and what it has observed and returned of its last step agree. -/
structure State.Inv (s : State) : Prop where
  bus      : s.bus.wf = true
  boundary : s.seq = .boundary
  counted  : s.trace.length = s.result.cycles
  bounded  : s.result.cycles ≤ maxStepCycles

/-- A machine that a fault has left: between steps, halted, its report about its own PC. -/
structure State.Stopped (s : State) : Prop where
  bus      : s.bus.wf = true
  boundary : s.seq = .boundary
  report   : ∃ r, s.phase = .halted r ∧ r.pc = s.regs.pc

/-! ### The opcode list of 30_encoding.md R306 -/

/-- The 105 opcode values that are not implemented, as R306 lists them. -/
def unimplementedOpcodes : List Byte :=
    [0x02, 0x03, 0x04, 0x07, 0x0B, 0x0C, 0x0F, 0x12, 0x13, 0x14, 0x17, 0x1A, 0x1B, 0x1C, 0x1F] ++
    [0x22, 0x23, 0x27, 0x2B, 0x2F, 0x32, 0x33, 0x34, 0x37, 0x3A, 0x3B, 0x3C, 0x3F, 0x42, 0x43] ++
    [0x44, 0x47, 0x4B, 0x4F, 0x52, 0x53, 0x54, 0x57, 0x5A, 0x5B, 0x5C, 0x5F, 0x62, 0x63, 0x64] ++
    [0x67, 0x6B, 0x6F, 0x72, 0x73, 0x74, 0x77, 0x7A, 0x7B, 0x7C, 0x7F, 0x80, 0x82, 0x83, 0x87] ++
    [0x89, 0x8B, 0x8F, 0x92, 0x93, 0x97, 0x9B, 0x9C, 0x9E, 0x9F, 0xA3, 0xA7, 0xAB, 0xAF, 0xB2] ++
    [0xB3, 0xB7, 0xBB, 0xBF, 0xC2, 0xC3, 0xC7, 0xCB, 0xCF, 0xD2, 0xD3, 0xD4, 0xD7, 0xDA, 0xDB] ++
    [0xDC, 0xDF, 0xE2, 0xE3, 0xE7, 0xEB, 0xEF, 0xF2, 0xF3, 0xF4, 0xF7, 0xFA, 0xFB, 0xFC, 0xFF]

/-! ### Safe steps -/

/-- A step is safe if it ends at a boundary and not at a fault. -/
def safeStep (s : State) : Prop := ∃ t, step s = .next t

/-- A run of `n` steps is safe if every one of them is. -/
def safeRun (n : Nat) (s : State) : Prop :=
  match n with
  | 0 => True
  | n + 1 => ∃ t, step s = .next t ∧ safeRun n t

end Sys2Proof.Machine
end

