-- ==== Sys2Proof/Certificates/Slice0/Obligations.lean ====
section
/-! DEFINITION. The statements for the provers. A rule's own decision (D<n> of 92_eei_decisions.md), an inference the
spec marks as its own, or a choice of this model (notes/assumptions/<n>.md) that a statement rests on is named in
its docstring. -/

open Sys2Proof Sys2Proof.Machine

/-! ### Encoding (30_encoding.md) -/

/-- Decoding the bytes of any instruction, whatever follows them, gives it back with every operand (R300,
R301). -/
def Obligations.DecodeOfEncode : Prop :=
  ∀ (i : Instr) (rest : List Byte), i.wf = true → decode (encode i ++ rest) = .ok (i, rest)

/-- Bytes that decode begin with the bytes of the instruction they decode to (R300, R304). -/
def Obligations.EncodeOfDecode : Prop :=
  ∀ (bytes : List Byte) (i : Instr) (rest : List Byte), decode bytes = .ok (i, rest) → bytes = encode i ++ rest

/-- The decoder refuses, under an opcode's name, exactly the bytes that begin with that opcode, for the 105 opcodes of
R306 (decision D2). -/
def Obligations.UnimplementedOpcodesRefused : Prop :=
  unimplementedOpcodes.length = 105 ∧ unimplementedOpcodes.Nodup ∧
    ∀ (bytes : List Byte) (op : Byte),
      decode bytes = .error (.unimplementedOpcode op) ↔ bytes.head? = some op ∧ op ∈ unimplementedOpcodes

/-- Words written out from the encoding lists and examples of the instruction rules decode to the instructions
they stand for, one or more of each family (30_encoding.md R304; R501 to R711). -/
def Obligations.SpecWordsDecode : Prop :=
  decode [0xA9, 0x42] = .ok (.ldaImm 0x42, []) ∧ decode [0xA2, 0xFF] = .ok (.ldxImm 0xFF, []) ∧
    decode [0x9D, 0x00, 0x20] = .ok (.staAbsx 0x00 0x20, []) ∧ decode [0x86, 0x10] = .ok (.stxZp 0x10, []) ∧
    decode [0x8C, 0x00, 0x03] = .ok (.styAbs 0x00 0x03, []) ∧ decode [0x9A] = .ok (.txs, []) ∧
    decode [0x71, 0x40] = .ok (.adcIzy 0x40, []) ∧ decode [0xE9, 0xF0] = .ok (.sbcImm 0xF0, []) ∧
    decode [0xE6, 0x10] = .ok (.incZp 0x10, []) ∧ decode [0xCE, 0x34, 0x12] = .ok (.decAbs 0x34 0x12, []) ∧
    decode [0x2C, 0x00, 0x30] = .ok (.bitAbs 0x00 0x30, []) ∧ decode [0x0A] = .ok (.aslAcc, []) ∧
    decode [0x46, 0x20] = .ok (.lsrZp 0x20, []) ∧ decode [0x10, 0x02] = .ok (.bplRel 0x02, []) ∧
    decode [0x4C, 0x00, 0xC0] = .ok (.jmpAbs 0x00 0xC0, []) ∧
    decode [0x6C, 0x20, 0x01] = .ok (.jmpInd 0x20 0x01, []) ∧
    decode [0x20, 0x34, 0x12] = .ok (.jsrAbs 0x34 0x12, []) ∧ decode [0x00, 0xEA] = .ok (.brk, [0xEA]) ∧
    decode [0x40] = .ok (.rti, []) ∧ decode [0x48] = .ok (.pha, []) ∧ decode [0x28] = .ok (.plp, []) ∧
    decode [0x58] = .ok (.cli, []) ∧ decode [0xEA] = .ok (.nop, [])

/-- R310: load immediate 0x42 into the accumulator is LDA #$42, two bytes, A9 42. -/
def Obligations.LoadImmediateWord : Prop :=
  encode (.ldaImm 0x42) = [0xA9, 0x42] ∧ decode [0xA9, 0x42] = .ok (.ldaImm 0x42, []) ∧
    (Instr.ldaImm 0x42).length = 2 ∧
    ∀ s : State, ∃ t : State, exec (.ldaImm 0x42) s = .next t ∧ t.regs.a = 0x42

/-! ### Steps (40_cycle_engine.md, 60_exceptions.md) -/

/-- When the bytes at PC decode to an instruction and those its fetch reads can be read there, one a cycle, `step`
is its meaning on the state after that fetch (40_cycle_engine.md R407, R410). The third byte of JSR is not
among them: its own sequence reads it (45_control.md R661; log 6, log 11). -/
def Obligations.StepRunsDecodedInstruction : Prop :=
  ∀ (s : State) (bytes rest : List Byte) (i : Instr) (b : Bus), s.Ready → decode bytes = .ok (i, rest) →
    s.bus.replay (fetchReads s.regs.pc (bytes.take (fetchCycles i))) = some b →
    step s = exec i (s.fetched (opcodeOf i) (bytes.take (fetchCycles i)) b)

/-- The interrupt lines and what the boundary sample decides. A line is asserted while it has a source; a device's
drive changes its own request only, and the host's call only the host's request on the line it names (10_state.md
R131, R132; 40_cycle_engine.md R433). The sample: NMI on an edge, else IRQ if I is 0, else none (60_exceptions.md
R811 to R816). Decisions D6, D7, D15, D22, D30; that a call's net effect on its line is kept is log 13. -/
def Obligations.BoundarySampleDecides : Prop :=
  (∀ l : Line, l.asserted = true ↔ l.host = true ∨ l.devices ≠ []) ∧
    (∀ (l : Line) (n k : Nat) (d : LineDrive), (l.drive n d).host = l.host ∧
      (k ∈ (l.drive n d).devices ↔ if k = n then d = .assert ∨ d = .keep ∧ n ∈ l.devices else k ∈ l.devices)) ∧
    (∀ (s : State) (level : Bool),
      let l := s.bus.lines
      setHostLine s .nmi level =
        { s with bus := { s.bus with lines := ⟨⟨level, l.nmi.devices⟩, l.irq⟩ } } ∧
      setHostLine s .irq level =
        { s with bus := { s.bus with lines := ⟨l.nmi, ⟨level, l.irq.devices⟩⟩ } }) ∧
    ∀ s : State,
      (s.bus.lines.nmi.asserted = true → s.nmiPrev = false → s.pendingService = some .nmi) ∧
      (s.bus.lines.nmi.asserted = false ∨ s.nmiPrev = true →
        (s.bus.lines.irq.asserted = true → s.regs.i = false → s.pendingService = some .irq) ∧
        (s.bus.lines.irq.asserted = false ∨ s.regs.i = true → s.pendingService = none))

/-- Interrupt entry: a step whose boundary sample chooses a service is the seven cycles of R821 and nothing else,
with the vector of its kind, and leaves what R822 says. -/
def Obligations.StepServicesInterrupt : Prop :=
  ∀ (s : State) (k : ServiceKind) (vector : Word) (u v lo hi : Byte), s.seq = .boundary →
    (∀ r, s.phase ≠ .halted r) → s.pendingService = some k →
    (k = .nmi ∧ vector = 0xFFFA ∨ k = .irq ∧ vector = 0xFFFE) →
    let g := s.regs
    let cs :=
      [rd g.pc u, rd g.pc v, wr (stackAddress g.s) (hi8 g.pc), wr (stackAddress (g.s - 1)) (lo8 g.pc),
        wr (stackAddress (g.s - 2)) (g.pByte false), rd vector lo, rd (vector + 1) hi]
    (∀ b, s.bus.replay cs = some b →
      step s = .next (s.stepped cs b { g with s := g.s - 3, i := true, pc := word hi lo })) ∧
    FaultsAlong step s cs

/-- R423: in phase `Halted` a step ticks nothing, changes nothing and answers the recorded fault; no other host operation
leaves the phase, and `reset` does (decisions D12, D27). That a run stops with the fault is stated where its
predicate does not hold and its budget is not 0: what it answers otherwise is the model's choice (log 21). -/
def Obligations.HaltedUntilReset : Prop :=
  ∀ (s : State) (report : FaultReport), s.phase = .halted report →
    step s = .fault (report.kind.toFault s) ∧
    (∀ pred budget, pred s.view = false → 0 < budget →
      runUntil pred budget s = .stopped (report.kind.toFault s) report.cyclesInStep) ∧
    (∀ r target, attach s r target = .refused .notConfiguring) ∧
    (∀ a, hostRead s a = .refused .machineHalted) ∧ (∀ a v, hostWrite s a v = .refused .machineHalted) ∧
    (∀ g, loadRegs s g = .refused .machineHalted) ∧
    (∀ line level, (setHostLine s line level).phase = .halted report) ∧
    (∀ t, resetMachine s = .next t → t.phase = .running)

/-- Under policy `Halt` an unimplemented opcode stops the step after its first cycle, before the devices tick, with
the state of R806 (60_exceptions.md R802, R803; 40_cycle_engine.md R401; decisions D2, D12). -/
def Obligations.UnimplementedOpcodeHalts : Prop :=
  ∀ (s : State) (op : Byte) (b : Bus), s.Ready → s.params.policy = .halt → op ∈ unimplementedOpcodes →
    s.bus.read s.regs.pc = some (op, b) →
    step s = .fault (.unimplementedOpcode op s.regs.pc { s with
      bus := b
      cycles := s.cycles + 1
      phase := .halted ⟨.unimplementedOpcode op s.regs.pc, s.regs.pc, s.cycles + 1, 1⟩
      trace := [rd s.regs.pc op]
      result := ⟨1, []⟩ })

/-- Under policy `SubstituteNop` an unimplemented opcode is a no-op of one byte and two cycles, with its report; a
fault in either cycle is an UnmappedAccess (60_exceptions.md R804; 40_cycle_engine.md R424; decision D2). -/
def Obligations.UnimplementedOpcodeSubstituted : Prop :=
  ∀ (s : State) (op u : Byte), s.Ready → s.params.policy = .substituteNop → op ∈ unimplementedOpcodes →
    let cs := [rd s.regs.pc op, rd (s.regs.pc + 1) u]
    (∀ b, s.bus.replay cs = some b →
      step s = .next { s.stepped cs b { s.regs with pc := s.regs.pc + 1 } with
        result := ⟨2, [⟨op, s.regs.pc⟩]⟩ }) ∧
    FaultsAlong step s cs

/-- Every fault of a step leaves the registers, flags and nmi_prev of its start, the cycles it took counted, and
`Halted` with the report (60_exceptions.md R806; decisions D12, D25). -/
def Obligations.FaultRestoresTheBoundary : Prop :=
  ∀ (s : State) (f : Fault), s.seq = .boundary → (∀ r, s.phase ≠ .halted r) → step s = .fault f →
    ∃ (k : FaultKind) (t : State) (n : Nat), f = k.toFault t ∧ 1 ≤ n ∧ n ≤ 7 ∧ t.regs = s.regs ∧
      t.nmiPrev = s.nmiPrev ∧ t.seq = .boundary ∧ t.cycles = s.cycles + n ∧
      t.phase = .halted ⟨k, s.regs.pc, s.cycles + n, n⟩ ∧ t.params = s.params ∧ t.bus.map = s.bus.map

/-- No step is refused: every one has a transition or stops at a fault of the spec (40_cycle_engine.md R420). -/
def Obligations.StepNeverRefuses : Prop := ∀ (s : State) (r : Refusal), step s ≠ .refused r

/-- A step that answers takes two to seven cycles, each counted, each one bus access, and ends at a boundary, running
(40_cycle_engine.md R405, R420, R422, R425; 10_state.md R144; decisions D4, D14). -/
def Obligations.StepCountsItsCycles : Prop :=
  ∀ s t : State, s.seq = .boundary → step s = .next t →
    t.cycles = s.cycles + t.result.cycles ∧ 2 ≤ t.result.cycles ∧ t.result.cycles ≤ 7 ∧
      t.trace.length = t.result.cycles ∧ t.seq = .boundary ∧ t.phase = .running

/-! ### The invariant -/

/-- The machine after reset satisfies the invariant. The platform it stands on is the model's choice (log 1). -/
def Obligations.InvariantAtReset : Prop := State.reset.Inv

/-- Every step that answers keeps the invariant: the map's entries valid, disjoint and inside their devices, the
memories and the lines' sets canonical, the CPU at a boundary (20_memory.md R203; 10_state.md R131, R141; log 2,
log 12). -/
def Obligations.StepKeepsInvariant : Prop := ∀ s t : State, s.Inv → step s = .next t → t.Inv

/-- Every step that faults leaves a stopped machine: the bus still well-formed, at a boundary, halted with a report
about its own PC (60_exceptions.md R806; decision D12). -/
def Obligations.FaultStopsTheMachine : Prop :=
  ∀ (s t : State) (k : FaultKind), s.Inv → (∀ r, s.phase ≠ .halted r) → step s = .fault (k.toFault t) → t.Stopped

/-! ### All instructions -/

/-- Where every address is mapped, every instruction completes, from any state: it makes some bus cycles that the bus
allows, and nothing else of the machine changes but its registers (42_load_store_transfer.md R500). -/
def Obligations.ExecCompletesWhereMapped : Prop :=
  ∀ (i : Instr) (s : State), (∀ a, s.bus.mapped a = true) →
    ∃ (cs : List BusCycle) (b : Bus) (g : Regs), s.bus.replay cs = some b ∧ exec i s = .next (s.after cs b g)

/-- The only fault of an instruction's meaning is UnmappedAccess, in the cycle whose address the map does not answer,
with the cycles before it done (42_load_store_transfer.md R500; 60_exceptions.md R801, R806; decision D12). -/
def Obligations.ExecFaultsOnlyWhereUnmapped : Prop :=
  ∀ (i : Instr) (s : State) (f : Fault), exec i s = .fault f →
    ∃ (a : Word) (acc : Access) (cs : List BusCycle) (b : Bus), s.bus.replay cs = some b ∧ b.mapped a = false ∧
      f = .unmappedAccess a acc (s.faulted cs b (.unmappedAccess a acc))

/-- With the cycles of its fetch, an instruction takes its base count and at most its extra cycles, and so exactly its
base count where it has none (41_addressing_pipeline.md R490, R491; 70_reset_and_hazards.md R931). -/
def Obligations.ExecCycleCounts : Prop :=
  ∀ (i : Instr) (s t : State), exec i s = .next t →
    ∃ n, t.cycles = s.cycles + n ∧ baseCycles i ≤ fetchCycles i + n ∧
      fetchCycles i + n ≤ baseCycles i + maxExtraCycles i

/-! ### Class R (41_addressing_pipeline.md) -/

/-- Immediate (R453): the operand byte is the operand. -/
def Obligations.ImmediateReads : Prop :=
  ∀ p ∈ [(Instr.ldaImm, Regs.lda), (Instr.ldxImm, Regs.ldx), (Instr.ldyImm, Regs.ldy), (Instr.adcImm, Regs.adc),
      (Instr.sbcImm, Regs.sbc), (Instr.cmpImm, Regs.cmp), (Instr.cpxImm, Regs.cpx), (Instr.cpyImm, Regs.cpy),
      (Instr.andImm, Regs.and), (Instr.oraImm, Regs.ora), (Instr.eorImm, Regs.eor)],
    ∀ (s : State) (b1 : Byte), exec (p.1 b1) s = .next (s.after [] s.bus (p.2 b1 s.regs))

/-- Zero page (R454): one read, at {0x00, b1}. -/
def Obligations.ZeroPageReads : Prop :=
  ∀ p ∈ [(Instr.ldaZp, Regs.lda), (Instr.ldxZp, Regs.ldx), (Instr.ldyZp, Regs.ldy), (Instr.adcZp, Regs.adc),
      (Instr.sbcZp, Regs.sbc), (Instr.cmpZp, Regs.cmp), (Instr.cpxZp, Regs.cpx), (Instr.cpyZp, Regs.cpy),
      (Instr.andZp, Regs.and), (Instr.oraZp, Regs.ora), (Instr.eorZp, Regs.eor), (Instr.bitZp, Regs.bitTest)],
    ∀ (s : State) (b1 v : Byte),
      let cs := [rd (word 0x00 b1) v]
      (∀ b, s.bus.replay cs = some b → exec (p.1 b1) s = .next (s.after cs b (p.2 v s.regs))) ∧
      FaultsAlong (exec (p.1 b1)) s cs

/-- Zero page,X and zero page,Y (R460, R462): the unindexed address is read first, and the sum stays in page 0. -/
def Obligations.ZeroPageIndexedReads : Prop :=
  ∀ p ∈ [(Instr.ldaZpx, Regs.x, Regs.lda), (Instr.ldyZpx, Regs.x, Regs.ldy), (Instr.adcZpx, Regs.x, Regs.adc),
      (Instr.sbcZpx, Regs.x, Regs.sbc), (Instr.cmpZpx, Regs.x, Regs.cmp), (Instr.andZpx, Regs.x, Regs.and),
      (Instr.oraZpx, Regs.x, Regs.ora), (Instr.eorZpx, Regs.x, Regs.eor), (Instr.ldxZpy, Regs.y, Regs.ldx)],
    ∀ (s : State) (b1 u v : Byte),
      let cs := [rd (word 0x00 b1) u, rd (word 0x00 (b1 + p.2.1 s.regs)) v]
      (∀ b, s.bus.replay cs = some b → exec (p.1 b1) s = .next (s.after cs b (p.2.2 v s.regs))) ∧
      FaultsAlong (exec (p.1 b1)) s cs

/-- Absolute (R457): one read, at {b2, b1}. -/
def Obligations.AbsoluteReads : Prop :=
  ∀ p ∈ [(Instr.ldaAbs, Regs.lda), (Instr.ldxAbs, Regs.ldx), (Instr.ldyAbs, Regs.ldy), (Instr.adcAbs, Regs.adc),
      (Instr.sbcAbs, Regs.sbc), (Instr.cmpAbs, Regs.cmp), (Instr.cpxAbs, Regs.cpx), (Instr.cpyAbs, Regs.cpy),
      (Instr.andAbs, Regs.and), (Instr.oraAbs, Regs.ora), (Instr.eorAbs, Regs.eor), (Instr.bitAbs, Regs.bitTest)],
    ∀ (s : State) (b1 b2 v : Byte),
      let cs := [rd (word b2 b1) v]
      (∀ b, s.bus.replay cs = some b → exec (p.1 b1 b2) s = .next (s.after cs b (p.2 v s.regs))) ∧
      FaultsAlong (exec (p.1 b1 b2)) s cs

/-- Absolute,X and absolute,Y (R465, R468): on a page cross, and only then, the address with its high byte not fixed
is read first; the sum wraps at 2^16. -/
def Obligations.AbsoluteIndexedReads : Prop :=
  ∀ p ∈ [(Instr.ldaAbsx, Regs.x, Regs.lda), (Instr.ldyAbsx, Regs.x, Regs.ldy), (Instr.adcAbsx, Regs.x, Regs.adc),
      (Instr.sbcAbsx, Regs.x, Regs.sbc), (Instr.cmpAbsx, Regs.x, Regs.cmp), (Instr.andAbsx, Regs.x, Regs.and),
      (Instr.oraAbsx, Regs.x, Regs.ora), (Instr.eorAbsx, Regs.x, Regs.eor), (Instr.ldaAbsy, Regs.y, Regs.lda),
      (Instr.ldxAbsy, Regs.y, Regs.ldx), (Instr.adcAbsy, Regs.y, Regs.adc), (Instr.sbcAbsy, Regs.y, Regs.sbc),
      (Instr.cmpAbsy, Regs.y, Regs.cmp), (Instr.andAbsy, Regs.y, Regs.and), (Instr.oraAbsy, Regs.y, Regs.ora),
      (Instr.eorAbsy, Regs.y, Regs.eor)],
    ∀ (s : State) (b1 b2 u v : Byte),
      let idx := p.2.1 s.regs
      let ea := word b2 b1 + zext idx
      let cs := if b1.toNat + idx.toNat ≤ 0xFF then [rd ea v] else [rd (word b2 (b1 + idx)) u, rd ea v]
      (∀ b, s.bus.replay cs = some b → exec (p.1 b1 b2) s = .next (s.after cs b (p.2.2 v s.regs))) ∧
      FaultsAlong (exec (p.1 b1 b2)) s cs

/-- (zero page,X) (R470, R480): the unindexed address is read first, and the pointer stays in page 0. -/
def Obligations.IndexedIndirectReads : Prop :=
  ∀ p ∈ [(Instr.ldaIzx, Regs.lda), (Instr.adcIzx, Regs.adc), (Instr.sbcIzx, Regs.sbc), (Instr.cmpIzx, Regs.cmp),
      (Instr.andIzx, Regs.and), (Instr.oraIzx, Regs.ora), (Instr.eorIzx, Regs.eor)],
    ∀ (s : State) (b1 u lo hi v : Byte),
      let ptr := b1 + s.regs.x
      let cs := [rd (word 0x00 b1) u, rd (word 0x00 ptr) lo, rd (word 0x00 (ptr + 1)) hi, rd (word hi lo) v]
      (∀ b, s.bus.replay cs = some b → exec (p.1 b1) s = .next (s.after cs b (p.2 v s.regs))) ∧
      FaultsAlong (exec (p.1 b1)) s cs

/-- (zero page),Y (R475, R480, R468): the pointer stays in page 0; on a page cross, and only then, the address with its
high byte not fixed is read first. -/
def Obligations.IndirectIndexedReads : Prop :=
  ∀ p ∈ [(Instr.ldaIzy, Regs.lda), (Instr.adcIzy, Regs.adc), (Instr.sbcIzy, Regs.sbc), (Instr.cmpIzy, Regs.cmp),
      (Instr.andIzy, Regs.and), (Instr.oraIzy, Regs.ora), (Instr.eorIzy, Regs.eor)],
    ∀ (s : State) (b1 lo hi u v : Byte),
      let y := s.regs.y
      let ea := word hi lo + zext y
      let cs := [rd (word 0x00 b1) lo, rd (word 0x00 (b1 + 1)) hi] ++
        (if lo.toNat + y.toNat ≤ 0xFF then [rd ea v] else [rd (word hi (lo + y)) u, rd ea v])
      (∀ b, s.bus.replay cs = some b → exec (p.1 b1) s = .next (s.after cs b (p.2 v s.regs))) ∧
      FaultsAlong (exec (p.1 b1)) s cs

/-! ### Classes W and M (41_addressing_pipeline.md) -/

/-- Stores in zero page, absolute, zero page,X and zero page,Y (R454, R457, R460): the register named is written at the
effective address, after the unindexed read where there is an index; no register changes. -/
def Obligations.DirectStores : Prop :=
  (∀ p ∈ [(Instr.staZp, Regs.a), (Instr.stxZp, Regs.x), (Instr.styZp, Regs.y)], ∀ (s : State) (b1 : Byte),
    let cs := [wr (word 0x00 b1) (p.2 s.regs)]
    (∀ b, s.bus.replay cs = some b → exec (p.1 b1) s = .next (s.after cs b s.regs)) ∧
    FaultsAlong (exec (p.1 b1)) s cs) ∧
  (∀ p ∈ [(Instr.staAbs, Regs.a), (Instr.stxAbs, Regs.x), (Instr.styAbs, Regs.y)], ∀ (s : State) (b1 b2 : Byte),
    let cs := [wr (word b2 b1) (p.2 s.regs)]
    (∀ b, s.bus.replay cs = some b → exec (p.1 b1 b2) s = .next (s.after cs b s.regs)) ∧
    FaultsAlong (exec (p.1 b1 b2)) s cs) ∧
  (∀ p ∈ [(Instr.staZpx, Regs.x, Regs.a), (Instr.styZpx, Regs.x, Regs.y), (Instr.stxZpy, Regs.y, Regs.x)],
    ∀ (s : State) (b1 u : Byte),
    let cs := [rd (word 0x00 b1) u, wr (word 0x00 (b1 + p.2.1 s.regs)) (p.2.2 s.regs)]
    (∀ b, s.bus.replay cs = some b → exec (p.1 b1) s = .next (s.after cs b s.regs)) ∧
    FaultsAlong (exec (p.1 b1)) s cs)

/-- STA in absolute,X, absolute,Y, (zero page,X) and (zero page),Y (R466, R470, R476): the address with its high byte
not fixed is read first, page cross or not; no register changes. -/
def Obligations.IndexedStores : Prop :=
  (∀ p ∈ [(Instr.staAbsx, Regs.x), (Instr.staAbsy, Regs.y)], ∀ (s : State) (b1 b2 u : Byte),
    let idx := p.2 s.regs
    let cs := [rd (word b2 (b1 + idx)) u, wr (word b2 b1 + zext idx) s.regs.a]
    (∀ b, s.bus.replay cs = some b → exec (p.1 b1 b2) s = .next (s.after cs b s.regs)) ∧
    FaultsAlong (exec (p.1 b1 b2)) s cs) ∧
  (∀ (s : State) (b1 u lo hi : Byte),
    let ptr := b1 + s.regs.x
    let cs := [rd (word 0x00 b1) u, rd (word 0x00 ptr) lo, rd (word 0x00 (ptr + 1)) hi, wr (word hi lo) s.regs.a]
    (∀ b, s.bus.replay cs = some b → exec (.staIzx b1) s = .next (s.after cs b s.regs)) ∧
    FaultsAlong (exec (.staIzx b1)) s cs) ∧
  (∀ (s : State) (b1 lo hi u : Byte),
    let y := s.regs.y
    let cs := [rd (word 0x00 b1) lo, rd (word 0x00 (b1 + 1)) hi, rd (word hi (lo + y)) u,
      wr (word hi lo + zext y) s.regs.a]
    (∀ b, s.bus.replay cs = some b → exec (.staIzy b1) s = .next (s.after cs b s.regs)) ∧
    FaultsAlong (exec (.staIzy b1)) s cs)

/-- Read-modify-write (R455, R456, R458, R461, R467; decision D18): at one effective address, the byte is read,
written back unmodified, and written with the result; the flags are the operation's. -/
def Obligations.ReadModifyWrites : Prop :=
  (∀ p ∈ [(Instr.incZp, incByte), (Instr.decZp, decByte), (Instr.aslZp, aslByte), (Instr.lsrZp, lsrByte),
      (Instr.rolZp, rolByte), (Instr.rorZp, rorByte)],
    ∀ (s : State) (b1 v : Byte),
    let ea := word 0x00 b1
    let cs := [rd ea v, wr ea v, wr ea (p.2 v s.regs).1]
    (∀ b, s.bus.replay cs = some b → exec (p.1 b1) s = .next (s.after cs b (p.2 v s.regs).2)) ∧
    FaultsAlong (exec (p.1 b1)) s cs) ∧
  (∀ p ∈ [(Instr.incZpx, incByte), (Instr.decZpx, decByte), (Instr.aslZpx, aslByte), (Instr.lsrZpx, lsrByte),
      (Instr.rolZpx, rolByte), (Instr.rorZpx, rorByte)],
    ∀ (s : State) (b1 u v : Byte),
    let ea := word 0x00 (b1 + s.regs.x)
    let cs := [rd (word 0x00 b1) u, rd ea v, wr ea v, wr ea (p.2 v s.regs).1]
    (∀ b, s.bus.replay cs = some b → exec (p.1 b1) s = .next (s.after cs b (p.2 v s.regs).2)) ∧
    FaultsAlong (exec (p.1 b1)) s cs) ∧
  (∀ p ∈ [(Instr.incAbs, incByte), (Instr.decAbs, decByte), (Instr.aslAbs, aslByte), (Instr.lsrAbs, lsrByte),
      (Instr.rolAbs, rolByte), (Instr.rorAbs, rorByte)],
    ∀ (s : State) (b1 b2 v : Byte),
    let ea := word b2 b1
    let cs := [rd ea v, wr ea v, wr ea (p.2 v s.regs).1]
    (∀ b, s.bus.replay cs = some b → exec (p.1 b1 b2) s = .next (s.after cs b (p.2 v s.regs).2)) ∧
    FaultsAlong (exec (p.1 b1 b2)) s cs) ∧
  (∀ p ∈ [(Instr.incAbsx, incByte), (Instr.decAbsx, decByte), (Instr.aslAbsx, aslByte), (Instr.lsrAbsx, lsrByte),
      (Instr.rolAbsx, rolByte), (Instr.rorAbsx, rorByte)],
    ∀ (s : State) (b1 b2 u v : Byte),
    let ea := word b2 b1 + zext s.regs.x
    let cs := [rd (word b2 (b1 + s.regs.x)) u, rd ea v, wr ea v, wr ea (p.2 v s.regs).1]
    (∀ b, s.bus.replay cs = some b → exec (p.1 b1 b2) s = .next (s.after cs b (p.2 v s.regs).2)) ∧
    FaultsAlong (exec (p.1 b1 b2)) s cs)

/-! ### Class I, branches and the sequences of their own -/

/-- Implied and accumulator (41_addressing_pipeline.md R452): the byte at PC is read and discarded, PC stays, and the
operation runs; in accumulator mode its result goes to A. -/
def Obligations.ImpliedAndAccumulator : Prop :=
  (∀ p ∈ [(Instr.tax, Regs.tax), (Instr.tay, Regs.tay), (Instr.tsx, Regs.tsx), (Instr.txa, Regs.txa),
      (Instr.txs, Regs.txs), (Instr.tya, Regs.tya), (Instr.inx, Regs.inx), (Instr.iny, Regs.iny),
      (Instr.dex, Regs.dex), (Instr.dey, Regs.dey), (Instr.clc, Regs.clc), (Instr.sec, Regs.sec),
      (Instr.cld, Regs.cld), (Instr.sed, Regs.sed), (Instr.cli, Regs.cli), (Instr.sei, Regs.sei),
      (Instr.clv, Regs.clv), (Instr.nop, id)],
    ∀ (s : State) (u : Byte),
    let cs := [rd s.regs.pc u]
    (∀ b, s.bus.replay cs = some b → exec p.1 s = .next (s.after cs b (p.2 s.regs))) ∧ FaultsAlong (exec p.1) s cs) ∧
  (∀ p ∈ [(Instr.aslAcc, aslByte), (Instr.lsrAcc, lsrByte), (Instr.rolAcc, rolByte), (Instr.rorAcc, rorByte)],
    ∀ (s : State) (u : Byte),
    let cs := [rd s.regs.pc u]
    let result := p.2 s.regs.a s.regs
    (∀ b, s.bus.replay cs = some b → exec p.1 s = .next (s.after cs b { result.2 with a := result.1 })) ∧
    FaultsAlong (exec p.1) s cs)

/-- Branches (45_control.md R650 to R658), from PC = PCn on: nothing if not taken; one discarded read at PCn if taken;
one more, with PCn's high byte, if the target is in another page than PCn. No flag changes. -/
def Obligations.BranchResults : Prop :=
  ∀ p ∈ [(Instr.bplRel, fun g : Regs => !g.n), (Instr.bmiRel, fun g => g.n), (Instr.bvcRel, fun g => !g.v),
      (Instr.bvsRel, fun g => g.v), (Instr.bccRel, fun g => !g.c), (Instr.bcsRel, fun g => g.c),
      (Instr.bneRel, fun g => !g.z), (Instr.beqRel, fun g => g.z)],
    ∀ (s : State) (b1 u v : Byte),
      let pcn := s.regs.pc
      let target := pcn + sext b1
      let cs := if p.2 s.regs = false then [] else if hi8 target = hi8 pcn then [rd pcn u]
        else [rd pcn u, rd (word (hi8 pcn) (lo8 target)) v]
      (∀ b, s.bus.replay cs = some b →
        exec (p.1 b1) s = .next (s.after cs b { s.regs with pc := if p.2 s.regs = false then pcn else target })) ∧
      FaultsAlong (exec (p.1 b1)) s cs

/-- JMP absolute, JMP indirect, JSR and RTS (45_control.md R659 to R662), from the state after the fetch of their
operand bytes on (JSR: of its first, PC at its last). -/
def Obligations.JumpAndSubroutineResults : Prop :=
  (∀ (s : State) (b1 b2 : Byte),
    exec (.jmpAbs b1 b2) s = .next (s.after [] s.bus { s.regs with pc := word b2 b1 })) ∧
  (∀ (s : State) (b1 b2 lo hi : Byte),
    let cs := [rd (word b2 b1) lo, rd (word b2 (b1 + 1)) hi]
    (∀ b, s.bus.replay cs = some b →
      exec (.jmpInd b1 b2) s = .next (s.after cs b { s.regs with pc := word hi lo })) ∧
    FaultsAlong (exec (.jmpInd b1 b2)) s cs) ∧
  (∀ (s : State) (b1 b2 u hi : Byte),
    let g := s.regs
    let cs := [rd (stackAddress g.s) u, wr (stackAddress g.s) (hi8 g.pc), wr (stackAddress (g.s - 1)) (lo8 g.pc),
      rd g.pc hi]
    (∀ b, s.bus.replay cs = some b →
      exec (.jsrAbs b1 b2) s = .next (s.after cs b { g with s := g.s - 2, pc := word hi b1 })) ∧
    FaultsAlong (exec (.jsrAbs b1 b2)) s cs) ∧
  (∀ (s : State) (u v lo hi w : Byte),
    let g := s.regs
    let cs := [rd g.pc u, rd (stackAddress g.s) v, rd (stackAddress (g.s + 1)) lo, rd (stackAddress (g.s + 2)) hi,
      rd (word hi lo) w]
    (∀ b, s.bus.replay cs = some b →
      exec .rts s = .next (s.after cs b { g with s := g.s + 2, pc := word hi lo + 1 })) ∧
    FaultsAlong (exec .rts) s cs)

/-- BRK and RTI (45_control.md R664, R665), from the state after the opcode fetch on: BRK skips its padding byte and
takes the software interrupt, with bit 4 of the pushed byte 1; RTI restores the six flags and PC. -/
def Obligations.BreakAndReturnResults : Prop :=
  (∀ (s : State) (u lo hi : Byte),
    let g := s.regs
    let cs := [rd g.pc u, wr (stackAddress g.s) (hi8 (g.pc + 1)), wr (stackAddress (g.s - 1)) (lo8 (g.pc + 1)),
      wr (stackAddress (g.s - 2)) (g.pByte true), rd 0xFFFE lo, rd 0xFFFF hi]
    (∀ b, s.bus.replay cs = some b →
      exec .brk s = .next (s.after cs b { g with s := g.s - 3, i := true, pc := word hi lo })) ∧
    FaultsAlong (exec .brk) s cs) ∧
  (∀ (s : State) (u v p lo hi : Byte),
    let g := s.regs
    let cs := [rd g.pc u, rd (stackAddress g.s) v, rd (stackAddress (g.s + 1)) p, rd (stackAddress (g.s + 2)) lo,
      rd (stackAddress (g.s + 3)) hi]
    (∀ b, s.bus.replay cs = some b →
      exec .rti s = .next (s.after cs b { g with
        s := g.s + 3, pc := word hi lo, n := p.getLsbD 7, v := p.getLsbD 6, d := p.getLsbD 3
        i := p.getLsbD 2, z := p.getLsbD 1, c := p.getLsbD 0 })) ∧
    FaultsAlong (exec .rti) s cs)

/-- PHA, PHP, PLA and PLP (46_stack_flags_misc.md R700 to R703), from the state after the opcode fetch on. -/
def Obligations.PushAndPullResults : Prop :=
  (∀ p ∈ [(Instr.pha, Regs.a), (Instr.php, fun g => g.pByte true)], ∀ (s : State) (u : Byte),
    let g := s.regs
    let cs := [rd g.pc u, wr (stackAddress g.s) (p.2 g)]
    (∀ b, s.bus.replay cs = some b → exec p.1 s = .next (s.after cs b { g with s := g.s - 1 })) ∧
    FaultsAlong (exec p.1) s cs) ∧
  (∀ (s : State) (u v w : Byte),
    let g := s.regs
    let cs := [rd g.pc u, rd (stackAddress g.s) v, rd (stackAddress (g.s + 1)) w]
    (∀ b, s.bus.replay cs = some b →
      exec .pla s = .next (s.after cs b { g with s := g.s + 1, a := w, z := w == 0, n := w.getLsbD 7 }) ∧
      exec .plp s = .next (s.after cs b { g with
        s := g.s + 1, n := w.getLsbD 7, v := w.getLsbD 6, d := w.getLsbD 3
        i := w.getLsbD 2, z := w.getLsbD 1, c := w.getLsbD 0 })) ∧
    FaultsAlong (exec .pla) s cs ∧ FaultsAlong (exec .plp) s cs)

/-! ### What the operations compute (42_load_store_transfer.md, 43_arithmetic.md, 44_logic_shift.md) -/

/-- The loads, transfers, index counts and flag operations: what each writes, and nothing else (R501 to R512, R561 to
R564, R704 to R710; 10_state.md R114). -/
def Obligations.RegisterOperationValues : Prop :=
  (∀ (m : Byte) (g : Regs),
    Regs.lda m g = { g with a := m, z := m == 0, n := m.getLsbD 7 } ∧
    Regs.ldx m g = { g with x := m, z := m == 0, n := m.getLsbD 7 } ∧
    Regs.ldy m g = { g with y := m, z := m == 0, n := m.getLsbD 7 }) ∧
  (∀ g : Regs,
    g.tax = { g with x := g.a, z := g.a == 0, n := g.a.getLsbD 7 } ∧
    g.tay = { g with y := g.a, z := g.a == 0, n := g.a.getLsbD 7 } ∧
    g.tsx = { g with x := g.s, z := g.s == 0, n := g.s.getLsbD 7 } ∧
    g.txa = { g with a := g.x, z := g.x == 0, n := g.x.getLsbD 7 } ∧
    g.txs = { g with s := g.x } ∧
    g.tya = { g with a := g.y, z := g.y == 0, n := g.y.getLsbD 7 } ∧
    g.inx = { g with x := g.x + 1, z := g.x + 1 == 0, n := (g.x + 1).getLsbD 7 } ∧
    g.iny = { g with y := g.y + 1, z := g.y + 1 == 0, n := (g.y + 1).getLsbD 7 } ∧
    g.dex = { g with x := g.x - 1, z := g.x - 1 == 0, n := (g.x - 1).getLsbD 7 } ∧
    g.dey = { g with y := g.y - 1, z := g.y - 1 == 0, n := (g.y - 1).getLsbD 7 } ∧
    g.clc = { g with c := false } ∧ g.sec = { g with c := true } ∧ g.cld = { g with d := false } ∧
    g.sed = { g with d := true } ∧ g.cli = { g with i := false } ∧ g.sei = { g with i := true } ∧
    g.clv = { g with v := false })

/-- AND, ORA, EOR, BIT, INC, DEC and the shifts and rotates: what each computes, and nothing else (R559, R560, R600 to
R607; decision D19). -/
def Obligations.LogicAndShiftValues : Prop :=
  (∀ (m : Byte) (g : Regs),
    Regs.and m g = { g with a := g.a &&& m, z := (g.a &&& m) == 0, n := (g.a &&& m).getLsbD 7 } ∧
    Regs.ora m g = { g with a := g.a ||| m, z := (g.a ||| m) == 0, n := (g.a ||| m).getLsbD 7 } ∧
    Regs.eor m g = { g with a := g.a ^^^ m, z := (g.a ^^^ m) == 0, n := (g.a ^^^ m).getLsbD 7 } ∧
    Regs.bitTest m g = { g with z := (g.a &&& m) == 0, n := m.getLsbD 7, v := m.getLsbD 6 }) ∧
  (∀ (v : Byte) (g : Regs),
    let flags := fun (r : Byte) (c : Bool) => { g with z := r == 0, n := r.getLsbD 7, c := c }
    let inc := BitVec.ofNat 8 (v.toNat + 1)
    let dec := BitVec.ofInt 8 ((v.toNat : Int) - 1)
    let asl := BitVec.ofNat 8 (v.toNat * 2)
    let lsr := BitVec.ofNat 8 (v.toNat / 2)
    let rol := BitVec.ofNat 8 (v.toNat * 2 + g.c.toNat)
    let ror := BitVec.ofNat 8 (v.toNat / 2 + 0x80 * g.c.toNat)
    incByte v g = (inc, flags inc g.c) ∧ decByte v g = (dec, flags dec g.c) ∧
    aslByte v g = (asl, flags asl (v.getLsbD 7)) ∧ lsrByte v g = (lsr, { flags lsr (v.getLsbD 0) with n := false }) ∧
    rolByte v g = (rol, flags rol (v.getLsbD 7)) ∧ rorByte v g = (ror, { flags ror (v.getLsbD 0) with n := g.c }))

/-- ADC with D = 0: the 9-bit sum, C its unsigned overflow, V its signed overflow, nothing else (R550, R551). -/
def Obligations.BinaryAddition : Prop :=
  ∀ (m : Byte) (g : Regs), g.d = false →
    let t := g.a.toNat + m.toNat + g.c.toNat
    let signed := g.a.toInt + m.toInt + g.c.toNat
    Regs.adc m g = { g with
      a := BitVec.ofNat 8 t
      c := decide (0xFF < t)
      v := decide (signed < -128 ∨ 127 < signed)
      z := decide (t % 256 = 0)
      n := decide (128 ≤ t % 256) }

/-- ADC with D = 1 is R552's, for every input, and adds as decimal numbers where both operands are valid BCD
(decision D1). -/
def Obligations.DecimalAddition : Prop :=
  ∀ (m : Byte) (g : Regs), g.d = true →
    let al := g.a.toNat % 16 + m.toNat % 16 + g.c.toNat
    let al := if 0x0A ≤ al then (al + 0x06) % 16 + 0x10 else al
    let t := g.a.toNat / 16 * 16 + m.toNat / 16 * 16 + al
    let t' := if 0xA0 ≤ t then t + 0x60 else t
    let r := Regs.adc m g
    r = { g with
      a := BitVec.ofNat 8 t'
      c := decide (0x100 ≤ t')
      v := decide (g.a.getLsbD 7 ≠ t.testBit 7 ∧ g.a.getLsbD 7 = m.getLsbD 7)
      z := decide ((g.a.toNat + m.toNat + g.c.toNat) % 256 = 0)
      n := t.testBit 7 } ∧
    (g.a.toNat % 16 ≤ 9 → g.a.toNat / 16 ≤ 9 → m.toNat % 16 ≤ 9 → m.toNat / 16 ≤ 9 →
      let sum := (g.a.toNat / 16 * 10 + g.a.toNat % 16) + (m.toNat / 16 * 10 + m.toNat % 16) + g.c.toNat
      r.a.toNat = sum % 100 / 10 * 16 + sum % 10 ∧ (r.c = true ↔ 100 ≤ sum))

/-- SBC's four flags are those of the binary difference in either mode, and with D = 0 SBC is ADC of the complement
(R553; the second is the spec's own inference). -/
def Obligations.SubtractionLaws : Prop :=
  ∀ (m : Byte) (g : Regs),
    let t : Int := g.a.toNat - m.toNat - (1 - g.c.toNat)
    let diff := BitVec.ofInt 8 t
    let r := Regs.sbc m g
    r = { g with
      a := r.a
      c := decide (0 ≤ t)
      v := decide (g.a.getLsbD 7 ≠ m.getLsbD 7 ∧ g.a.getLsbD 7 ≠ diff.getLsbD 7)
      z := decide (diff = 0)
      n := diff.getLsbD 7 } ∧
    (g.d = false → r.a = diff ∧ r = Regs.adc (m ^^^ 0xFF) g)

/-- SBC with D = 1: the accumulator is R554's, for every input, and the decimal difference where both operands are
valid BCD (decision D1). -/
def Obligations.DecimalSubtraction : Prop :=
  ∀ (m : Byte) (g : Regs), g.d = true →
    let al : Int := (g.a.toNat % 16 : Nat) - (m.toNat % 16 : Nat) + g.c.toNat - 1
    let al : Int := if al < 0 then (al - 0x06) % 16 - 0x10 else al
    let t : Int := (g.a.toNat / 16 * 16 : Nat) - (m.toNat / 16 * 16 : Nat) + al
    let r := Regs.sbc m g
    r.a = BitVec.ofInt 8 (if t < 0 then t - 0x60 else t) ∧
    (g.a.toNat % 16 ≤ 9 → g.a.toNat / 16 ≤ 9 → m.toNat % 16 ≤ 9 → m.toNat / 16 ≤ 9 →
      let diff : Int :=
        (g.a.toNat / 16 * 10 + g.a.toNat % 16 : Nat) - (m.toNat / 16 * 10 + m.toNat % 16 : Nat) - (1 - g.c.toNat)
      (r.a.toNat : Int) = diff % 100 / 10 * 16 + diff % 10 ∧ (r.c = true ↔ 0 ≤ diff))

/-- R555: compare, for CMP, CPX and CPY. -/
def Obligations.CompareRule : Prop :=
  ∀ (m : Byte) (g : Regs),
    let compared := fun r : Byte => { g with
      c := decide (m.toNat ≤ r.toNat)
      z := decide (r = m)
      n := (BitVec.ofInt 8 ((r.toNat : Int) - m.toNat)).getLsbD 7 }
    Regs.cmp m g = compared g.a ∧ Regs.cpx m g = compared g.x ∧ Regs.cpy m g = compared g.y

/-! ### The status byte and the stack (10_state.md, 20_memory.md) -/

/-- R111 and R112: the image of the flags, bit by bit, which of the two images each pusher pushes, what loading a byte
does, and that PLP and RTI load the byte they pull. -/
def Obligations.StatusByteImage : Prop :=
  (∀ (g : Regs) (b : Bool),
    let p := g.pByte b
    p.getLsbD 7 = g.n ∧ p.getLsbD 6 = g.v ∧ p.getLsbD 5 = true ∧ p.getLsbD 4 = b ∧ p.getLsbD 3 = g.d ∧
      p.getLsbD 2 = g.i ∧ p.getLsbD 1 = g.z ∧ p.getLsbD 0 = g.c) ∧
  (∀ (s t : State), exec .php s = .next t → (t.trace.getLast?).map BusCycle.value = some (s.regs.pByte true)) ∧
  (∀ (s t : State), exec .brk s = .next t →
    (t.trace.reverse[2]?).map BusCycle.value = some (s.regs.pByte true)) ∧
  (∀ (s t : State) (k : ServiceKind), s.seq = .boundary → s.pendingService = some k → step s = .next t →
    (t.trace.reverse[2]?).map BusCycle.value = some (s.regs.pByte false)) ∧
  (∀ (g : Regs) (v : Byte),
    g.loadP v = { g with
      n := v.getLsbD 7, v := v.getLsbD 6, d := v.getLsbD 3, i := v.getLsbD 2, z := v.getLsbD 1, c := v.getLsbD 0 } ∧
    g.loadP (v ^^^ 0x10) = g.loadP v ∧ g.loadP (v ^^^ 0x20) = g.loadP v) ∧
  (∀ (s t : State), exec .plp s = .next t → ∃ v, (t.trace.getLast?).map BusCycle.value = some v ∧
    t.regs = { s.regs.loadP v with s := s.regs.s + 1 }) ∧
  (∀ (s t : State), exec .rti s = .next t → ∃ v, (t.trace.reverse[2]?).map BusCycle.value = some v ∧
    t.regs = { s.regs.loadP v with s := s.regs.s + 3, pc := t.regs.pc })

/-- R211: a push writes at 0x0100 + S, then decrements S; a pull increments S, then reads at 0x0100 + S (after the
discarded read every pull sequence begins with); S wraps, and no fault comes of it. -/
def Obligations.StackDiscipline : Prop :=
  (∀ s : Byte, stackAddress s = 0x0100 + zext s) ∧ (0x00 : Byte) - 1 = 0xFF ∧ (0xFF : Byte) + 1 = 0x00 ∧
  (∀ (r : Run) (v : Byte) (b : Bus), r.m.bus.write (stackAddress r.m.regs.s) v = some b →
    ∃ r', push v r = .ok () r' ∧ r'.m.bus = b.tick ∧ r'.m.regs = { r.m.regs with s := r.m.regs.s - 1 }) ∧
  (∀ (r : Run) (u v : Byte) (b b' : Bus), r.m.bus.read (stackAddress r.m.regs.s) = some (u, b) →
    b.tick.read (stackAddress (r.m.regs.s + 1)) = some (v, b') →
    ∃ r', (do beginPull; readStack : M Byte) r = .ok v r' ∧ r'.m.bus = b'.tick ∧
      r'.m.regs = { r.m.regs with s := r.m.regs.s + 1 })

/-! ### Whole steps of instructions, fetch included -/

/-- R507 to R510 and R512 (transfers), R561 to R564 (index counts), R704 and R705 (carry): encoding, cycles, effect,
flags, and the fault of an unmapped fetch or dummy read. -/
def Obligations.OneByteSteps : Prop :=
  ∀ p ∈ ([(0xAA, fun g => { g with x := g.a, z := g.a == 0, n := g.a.getLsbD 7 }),
      (0xA8, fun g => { g with y := g.a, z := g.a == 0, n := g.a.getLsbD 7 }),
      (0xBA, fun g => { g with x := g.s, z := g.s == 0, n := g.s.getLsbD 7 }),
      (0x8A, fun g => { g with a := g.x, z := g.x == 0, n := g.x.getLsbD 7 }),
      (0x98, fun g => { g with a := g.y, z := g.y == 0, n := g.y.getLsbD 7 }),
      (0xE8, fun g => { g with x := g.x + 1, z := g.x + 1 == 0, n := (g.x + 1).getLsbD 7 }),
      (0xC8, fun g => { g with y := g.y + 1, z := g.y + 1 == 0, n := (g.y + 1).getLsbD 7 }),
      (0xCA, fun g => { g with x := g.x - 1, z := g.x - 1 == 0, n := (g.x - 1).getLsbD 7 }),
      (0x88, fun g => { g with y := g.y - 1, z := g.y - 1 == 0, n := (g.y - 1).getLsbD 7 }),
      (0x18, fun g => { g with c := false }), (0x38, fun g => { g with c := true })] :
      List (Byte × (Regs → Regs))),
    ∀ (s : State) (u : Byte), s.Ready →
      let cs := [rd s.regs.pc p.1, rd (s.regs.pc + 1) u]
      (∀ b, s.bus.replay cs = some b →
        step s = .next (s.stepped cs b { p.2 s.regs with pc := s.regs.pc + 1 })) ∧
      FaultsAlong step s cs

/-- R511 (TXS), R706 to R710 (the other flags) and R711 (NOP): encoding, cycles, effect, flags, and the fault of an
unmapped fetch or dummy read. -/
def Obligations.FlagSteps : Prop :=
  ∀ p ∈ ([(0x9A, fun g => { g with s := g.x }), (0xD8, fun g => { g with d := false }),
      (0xF8, fun g => { g with d := true }), (0x58, fun g => { g with i := false }),
      (0x78, fun g => { g with i := true }), (0xB8, fun g => { g with v := false }), (0xEA, fun g => g)] :
      List (Byte × (Regs → Regs))),
    ∀ (s : State) (u : Byte), s.Ready →
      let cs := [rd s.regs.pc p.1, rd (s.regs.pc + 1) u]
      (∀ b, s.bus.replay cs = some b →
        step s = .next (s.stepped cs b { p.2 s.regs with pc := s.regs.pc + 1 })) ∧
      FaultsAlong step s cs

/-- R700 to R703 (PHA, PHP, PLA, PLP), R664 (BRK) and R665 (RTI): encoding, cycles, effect, flags, and the fault of an
unmapped address. -/
def Obligations.StackSteps : Prop :=
  ∀ s : State, s.Ready →
    let g := s.regs
    (∀ p ∈ ([(0x48, Regs.a), (0x08, fun g => g.pByte true)] : List (Byte × (Regs → Byte))), ∀ u : Byte,
      let cs := [rd g.pc p.1, rd (g.pc + 1) u, wr (stackAddress g.s) (p.2 g)]
      (∀ b, s.bus.replay cs = some b →
        step s = .next (s.stepped cs b { g with s := g.s - 1, pc := g.pc + 1 })) ∧
      FaultsAlong step s cs) ∧
    (∀ u v w : Byte,
      let cs := fun op : Byte =>
        [rd g.pc op, rd (g.pc + 1) u, rd (stackAddress g.s) v, rd (stackAddress (g.s + 1)) w]
      (∀ b, s.bus.replay (cs 0x68) = some b → step s = .next (s.stepped (cs 0x68) b
        { g with s := g.s + 1, pc := g.pc + 1, a := w, z := w == 0, n := w.getLsbD 7 })) ∧
      FaultsAlong step s (cs 0x68) ∧
      (∀ b, s.bus.replay (cs 0x28) = some b → step s = .next (s.stepped (cs 0x28) b
        { g with
          s := g.s + 1, pc := g.pc + 1, n := w.getLsbD 7, v := w.getLsbD 6, d := w.getLsbD 3
          i := w.getLsbD 2, z := w.getLsbD 1, c := w.getLsbD 0 })) ∧
      FaultsAlong step s (cs 0x28)) ∧
    (∀ u lo hi : Byte,
      let cs := [rd g.pc 0x00, rd (g.pc + 1) u, wr (stackAddress g.s) (hi8 (g.pc + 2)),
        wr (stackAddress (g.s - 1)) (lo8 (g.pc + 2)), wr (stackAddress (g.s - 2)) (g.pByte true), rd 0xFFFE lo,
        rd 0xFFFF hi]
      (∀ b, s.bus.replay cs = some b →
        step s = .next (s.stepped cs b { g with s := g.s - 3, i := true, pc := word hi lo })) ∧
      FaultsAlong step s cs) ∧
    (∀ u v p lo hi : Byte,
      let cs := [rd g.pc 0x40, rd (g.pc + 1) u, rd (stackAddress g.s) v, rd (stackAddress (g.s + 1)) p,
        rd (stackAddress (g.s + 2)) lo, rd (stackAddress (g.s + 3)) hi]
      (∀ b, s.bus.replay cs = some b → step s = .next (s.stepped cs b { g with
        s := g.s + 3, pc := word hi lo, n := p.getLsbD 7, v := p.getLsbD 6, d := p.getLsbD 3
        i := p.getLsbD 2, z := p.getLsbD 1, c := p.getLsbD 0 })) ∧
      FaultsAlong step s cs)

/-- R650 and R651 to R658: the eight branches, encoding, condition, cycles, target, and the fault of an unmapped
address. -/
def Obligations.BranchSteps : Prop :=
  ∀ p ∈ ([(0x10, fun g => !g.n), (0x30, fun g => g.n), (0x50, fun g => !g.v), (0x70, fun g => g.v),
      (0x90, fun g => !g.c), (0xB0, fun g => g.c), (0xD0, fun g => !g.z), (0xF0, fun g => g.z)] :
      List (Byte × (Regs → Bool))),
    ∀ (s : State) (b1 u v : Byte), s.Ready →
      let pcn := s.regs.pc + 2
      let target := BitVec.ofInt 16 (pcn.toNat + b1.toInt)
      let fetch := [rd s.regs.pc p.1, rd (s.regs.pc + 1) b1]
      let cs := if p.2 s.regs = false then fetch else if hi8 target = hi8 pcn then fetch ++ [rd pcn u]
        else fetch ++ [rd pcn u, rd (word (hi8 pcn) (lo8 target)) v]
      (∀ b, s.bus.replay cs = some b →
        step s = .next (s.stepped cs b { s.regs with pc := if p.2 s.regs = false then pcn else target })) ∧
      FaultsAlong step s cs

/-- R659 to R662: JMP absolute, JMP indirect with the pointer's high byte from the page of its low byte, JSR with its
last byte read after the pushes, RTS. -/
def Obligations.JumpSteps : Prop :=
  ∀ s : State, s.Ready →
    let g := s.regs
    (∀ adl adh : Byte,
      let cs := [rd g.pc 0x4C, rd (g.pc + 1) adl, rd (g.pc + 2) adh]
      (∀ b, s.bus.replay cs = some b → step s = .next (s.stepped cs b { g with pc := word adh adl })) ∧
      FaultsAlong step s cs) ∧
    (∀ pal pah adl adh : Byte,
      let cs := [rd g.pc 0x6C, rd (g.pc + 1) pal, rd (g.pc + 2) pah, rd (word pah pal) adl,
        rd (word pah (pal + 1)) adh]
      (∀ b, s.bus.replay cs = some b → step s = .next (s.stepped cs b { g with pc := word adh adl })) ∧
      FaultsAlong step s cs) ∧
    (∀ adl u adh : Byte,
      let cs := [rd g.pc 0x20, rd (g.pc + 1) adl, rd (stackAddress g.s) u, wr (stackAddress g.s) (hi8 (g.pc + 2)),
        wr (stackAddress (g.s - 1)) (lo8 (g.pc + 2)), rd (g.pc + 2) adh]
      (∀ b, s.bus.replay cs = some b →
        step s = .next (s.stepped cs b { g with s := g.s - 2, pc := word adh adl })) ∧
      FaultsAlong step s cs) ∧
    (∀ u v pcl pch w : Byte,
      let cs := [rd g.pc 0x60, rd (g.pc + 1) u, rd (stackAddress g.s) v, rd (stackAddress (g.s + 1)) pcl,
        rd (stackAddress (g.s + 2)) pch, rd (word pch pcl) w]
      (∀ b, s.bus.replay cs = some b →
        step s = .next (s.stepped cs b { g with s := g.s + 2, pc := word pch pcl + 1 })) ∧
      FaultsAlong step s cs)

/-! ### Frames -/

/-- Which instructions may change A, X, Y, S, and PC beyond the bytes fetched; every other leaves it (10_state.md R101
to R105). -/
def Obligations.RegisterWriters : Prop :=
  ∀ (i : Instr) (s t : State), exec i s = .next t →
    (mnemonic i ∉ [.lda, .adc, .sbc, .and, .ora, .eor, .txa, .tya, .pla] →
      i ∉ [.aslAcc, .lsrAcc, .rolAcc, .rorAcc] → t.regs.a = s.regs.a) ∧
    (mnemonic i ∉ [.ldx, .tax, .tsx, .inx, .dex] → t.regs.x = s.regs.x) ∧
    (mnemonic i ∉ [.ldy, .tay, .iny, .dey] → t.regs.y = s.regs.y) ∧
    (mnemonic i ∉ [.pha, .php, .jsr, .brk, .pla, .plp, .rts, .rti, .txs] → t.regs.s = s.regs.s) ∧
    (mnemonic i ∉ [.bpl, .bmi, .bvc, .bvs, .bcc, .bcs, .bne, .beq, .jmp, .jsr, .rts, .brk, .rti] →
      t.regs.pc = s.regs.pc)

/-- Which instructions may change each flag; every other leaves it (10_state.md R113, R114). -/
def Obligations.FlagWriters : Prop :=
  ∀ (i : Instr) (s t : State), exec i s = .next t →
    (mnemonic i ∉ [.adc, .sbc, .cmp, .cpx, .cpy, .asl, .lsr, .rol, .ror, .clc, .sec, .plp, .rti] →
      t.regs.c = s.regs.c) ∧
    (mnemonic i ∉ [.lda, .ldx, .ldy, .tax, .tay, .tsx, .txa, .tya, .pla, .and, .ora, .eor, .adc, .sbc, .inc, .dec,
        .inx, .iny, .dex, .dey, .asl, .lsr, .rol, .ror, .cmp, .cpx, .cpy, .bit, .plp, .rti] →
      t.regs.z = s.regs.z ∧ t.regs.n = s.regs.n) ∧
    (mnemonic i ∉ [.sei, .cli, .plp, .rti, .brk] → t.regs.i = s.regs.i) ∧
    (mnemonic i ∉ [.sed, .cld, .plp, .rti] → t.regs.d = s.regs.d) ∧
    (mnemonic i ∉ [.adc, .sbc, .bit, .clv, .plp, .rti] → t.regs.v = s.regs.v)

/-- An instruction whose form stores nothing leaves every byte of memory (41_addressing_pipeline.md R450, R452). -/
def Obligations.NonStoringKeepMemory : Prop :=
  ∀ (i : Instr) (s t : State), exec i s = .next t → writesMemory i = false → ∀ a, t.bus.peek a = s.bus.peek a

/-- A store or a read-modify-write leaves every byte of memory but the one at its effective address, which is the one
its addressing mode computes (41_addressing_pipeline.md R450, R451, R455; 20_memory.md R204: an address that is
a mirror of it reaches the same byte). -/
def Obligations.StoresKeepOtherMemory : Prop :=
  ∀ (b1 b2 : Byte) (i : Instr) (ea : M Word),
    (i, ea) ∈ [(.staZp b1, eaZp b1), (.stxZp b1, eaZp b1), (.styZp b1, eaZp b1), (.staZpx b1, eaZpx b1),
      (.styZpx b1, eaZpx b1), (.stxZpy b1, eaZpy b1), (.staAbs b1 b2, eaAbs b1 b2), (.stxAbs b1 b2, eaAbs b1 b2),
      (.styAbs b1 b2, eaAbs b1 b2), (.staAbsx b1 b2, eaAbsx .always b1 b2), (.staAbsy b1 b2, eaAbsy .always b1 b2),
      (.staIzx b1, eaIzx b1), (.staIzy b1, eaIzy .always b1),
      (.incZp b1, eaZp b1), (.decZp b1, eaZp b1), (.aslZp b1, eaZp b1), (.lsrZp b1, eaZp b1), (.rolZp b1, eaZp b1),
      (.rorZp b1, eaZp b1), (.incZpx b1, eaZpx b1), (.decZpx b1, eaZpx b1), (.aslZpx b1, eaZpx b1),
      (.lsrZpx b1, eaZpx b1), (.rolZpx b1, eaZpx b1), (.rorZpx b1, eaZpx b1), (.incAbs b1 b2, eaAbs b1 b2),
      (.decAbs b1 b2, eaAbs b1 b2), (.aslAbs b1 b2, eaAbs b1 b2), (.lsrAbs b1 b2, eaAbs b1 b2),
      (.rolAbs b1 b2, eaAbs b1 b2), (.rorAbs b1 b2, eaAbs b1 b2), (.incAbsx b1 b2, eaAbsx .always b1 b2),
      (.decAbsx b1 b2, eaAbsx .always b1 b2), (.aslAbsx b1 b2, eaAbsx .always b1 b2),
      (.lsrAbsx b1 b2, eaAbsx .always b1 b2), (.rolAbsx b1 b2, eaAbsx .always b1 b2),
      (.rorAbsx b1 b2, eaAbsx .always b1 b2)] →
    ∀ (s t : State), exec i s = .next t →
      ∃ (e : Word) (r : Run), ea s.enter = .ok e r ∧
        ∀ a, s.bus.sameCell a e = false → t.bus.peek a = s.bus.peek a

/-- PHA and PHP leave every byte of memory but the one at 0x0100 + S; JSR, but that and the next below; BRK, but three;
and so does the step of an interrupt service (20_memory.md R210, R211; 45_control.md R661, R664; 60_exceptions.md
R821). -/
def Obligations.PushesKeepOtherMemory : Prop :=
  (∀ (i : Instr) (n : Nat) (s t : State),
    (i = .pha ∧ n = 1 ∨ i = .php ∧ n = 1 ∨ (∃ b1 b2, i = .jsrAbs b1 b2) ∧ n = 2 ∨ i = .brk ∧ n = 3) →
    exec i s = .next t →
    ∀ a, (∀ k < n, s.bus.sameCell a (stackAddress (s.regs.s - BitVec.ofNat 8 k)) = false) →
      t.bus.peek a = s.bus.peek a) ∧
  (∀ (s t : State) (k : ServiceKind), s.seq = .boundary → s.pendingService = some k → step s = .next t →
    ∀ a, (∀ k < 3, s.bus.sameCell a (stackAddress (s.regs.s - BitVec.ofNat 8 k)) = false) →
      t.bus.peek a = s.bus.peek a)

/-! ### Memory and the host's operations -/

/-- Two byte arrays in canonical form that read the same are the same data (log 2). -/
def Obligations.MemoryCanonicalUnique : Prop :=
  ∀ (size : Nat) (m m' : Memory), Memory.wf size m = true → Memory.wf size m' = true →
    (∀ l < size, Memory.read m l = Memory.read m' l) → m = m'

/-- The host's access to memory and registers. A host write into a RAM is read back, at that address and at every
mirror of it; one into a ROM changes nothing; at an address no device answers the call fails and changes nothing
(20_memory.md R204, R205, R207 to R209; 60_exceptions.md R801). A register load sets the registers and flags and
nothing else, and leaves the CPU at a boundary (40_cycle_engine.md R432; the whole register file at once: log
16). The view shows the registers, `P_byte(1)`, the counter and the phase, in any phase (10_state.md R150).
Decisions D11 to D13, D20. -/
def Obligations.HostWriteThenRead : Prop :=
  (∀ (s : State) (a : Word) (v : Byte), s.bus.wf = true → (∀ r, s.phase ≠ .halted r) →
    (∀ n l size cells, s.bus.resolve a = some (n, l) → s.bus.devices[n]? = some (.ram size cells) →
      ∃ t, hostWrite s a v = .next t ∧ t.cycles = s.cycles ∧ t.regs = s.regs ∧
        ∀ a', s.bus.sameCell a' a = true → ∃ u, hostRead t a' = .next (v, u)) ∧
    (∀ n l size image, s.bus.resolve a = some (n, l) → s.bus.devices[n]? = some (.rom size image) →
      hostWrite s a v = .next s) ∧
    (s.bus.resolve a = none →
      hostWrite s a v = .fault (.unmappedAccess a .write s) ∧ hostRead s a = .fault (.unmappedAccess a .read s))) ∧
  (∀ (s : State) (g : Regs), (∀ r, s.phase ≠ .halted r) →
    loadRegs s g = .next { s with regs := g, seq := .boundary }) ∧
  ∀ s : State, s.view.regs = s.regs ∧ s.view.cycles = s.cycles ∧ s.view.phase = s.phase ∧
    s.view.p.toNat = 128 * s.regs.n.toNat + 64 * s.regs.v.toNat + 0x30 + 8 * s.regs.d.toNat + 4 * s.regs.i.toNat +
      2 * s.regs.z.toNat + s.regs.c.toNat

/-- `reset()` (70_reset_and_hazards.md R900 to R903, R905; decisions D9, D29, D35): the state it leaves, the two ways its
vector can be unmapped, and that a second reset leaves the same registers where a RAM or ROM holds the vector. Two
things here are the model's and not a rule's: that an unmapped 0xFFFC ends the reads, and that the first read's
effect on its device stays when 0xFFFD is unmapped (log 18); and that the records `trace` and `result` are kept
(log 8). -/
def Obligations.ResetState : Prop :=
  ∀ s : State,
    let start : Regs :=
      { a := s.params.resetA, x := s.params.resetX, y := s.params.resetY, s := 0xFD, pc := 0x0000
        n := false, v := false, d := false, i := true, z := false, c := false }
    let phase : Phase := match s.phase with
      | .halted _ => .running
      | .configuring => .configuring
      | .running => .running
    let after (b : Bus) (pc : Word) (p : Phase) : State :=
      { s with regs := { start with pc := pc }, nmiPrev := false, seq := .boundary, bus := b, cycles := 0, phase := p }
    (∀ lo hi b b', s.bus.read 0xFFFC = some (lo, b) → b.read 0xFFFD = some (hi, b') →
      resetMachine s = .next (after b' (word hi lo) phase)) ∧
    (s.bus.mapped 0xFFFC = false →
      resetMachine s = .fault (.unmappedAccess 0xFFFC .read
        (after s.bus 0x0000 (.halted ⟨.unmappedAccess 0xFFFC .read, 0x0000, 0, 0⟩)))) ∧
    (∀ lo b, s.bus.read 0xFFFC = some (lo, b) → b.mapped 0xFFFD = false →
      resetMachine s = .fault (.unmappedAccess 0xFFFD .read
        (after b 0x0000 (.halted ⟨.unmappedAccess 0xFFFD .read, 0x0000, 0, 0⟩)))) ∧
    (∀ lo hi, s.bus.peek 0xFFFC = some lo → s.bus.peek 0xFFFD = some hi →
      ∃ t u, resetMachine s = .next t ∧ resetMachine t = .next u ∧ t.regs = { start with pc := word hi lo } ∧
        u.regs = t.regs)

/-- `attach` (20_memory.md R203, R204; 60_exceptions.md R800; decisions D14, D28): in phase `Configuring` an overlapping or
invalid range is a RangeConflict that names an overlapped entry if there is one, and changes nothing; a valid one
that its device declares is added, a new device at the end of the tick list; in any other phase the call is
refused. `construct` leaves the state of 70_reset_and_hazards.md R904, and `build` is the attaches in order, up to
the first that fails (decisions D10, D32). The model's choices: a range past its device's own, or a device that
does not exist or is ill-formed, is refused (log 9, log 20), a device's range starting at local address 0 (log 22);
the records are empty at construction (log 8). -/
def Obligations.AttachConflicts : Prop :=
  (∀ (s : State) (r : Range) (target : AttachTarget),
    let overlaps (e : MapEntry) : Prop :=
      r.base.toNat < e.range.base.toNat + e.range.length ∧ e.range.base.toNat < r.base.toNat + r.length
    let invalid : Prop :=
      r.length = 0 ∨ 0x10000 < r.base.toNat + r.length ∨ 0x10000 < r.offset.toNat + r.length
    let declared (d : Device) : Prop := d.wf = true ∧ r.offset.toNat + r.length ≤ d.size
    let added (n : Nat) (devices : List Device) : State :=
      { s with bus := { s.bus with map := s.bus.map ++ [⟨r, n⟩], devices := devices } }
    (s.phase ≠ .configuring → attach s r target = .refused .notConfiguring) ∧
    (s.phase = .configuring → (invalid ∨ ∃ e ∈ s.bus.map, overlaps e) →
      ∃ q, attach s r target = .fault (.rangeConflict r q) ∧
        (∀ x, q = some x → ∃ e ∈ s.bus.map, e.range = x ∧ overlaps e) ∧
        ((∃ e ∈ s.bus.map, overlaps e) → q ≠ none)) ∧
    (s.phase = .configuring → ¬invalid → (∀ e ∈ s.bus.map, ¬overlaps e) →
      (∀ d, target = .new d →
        (declared d → attach s r target = .next (added s.bus.devices.length (s.bus.devices ++ [d]))) ∧
        (¬declared d → attach s r target = .refused .contractViolation)) ∧
      (∀ n, target = .existing n →
        (∀ d, s.bus.devices[n]? = some d → declared d → attach s r target = .next (added n s.bus.devices)) ∧
        ((∀ d, s.bus.devices[n]? = some d → ¬declared d) →
          attach s r target = .refused .contractViolation)))) ∧
  ∀ p : Params,
    construct p =
      { regs :=
          { a := p.resetA, x := p.resetX, y := p.resetY, s := 0xFD, pc := 0x0000
            n := false, v := false, d := false, i := true, z := false, c := false }
        nmiPrev := false, seq := .boundary
        bus := { map := [], devices := [], lines := ⟨⟨false, []⟩, ⟨false, []⟩⟩ }
        cycles := 0, phase := .configuring, params := p, trace := [], result := ⟨0, []⟩ } ∧
    build p [] = .next (construct p) ∧
    ∀ (entries : List (Range × AttachTarget)) (r : Range) (target : AttachTarget),
      (∀ m, build p entries = .next m → build p (entries ++ [(r, target)]) = attach m r target) ∧
      ((∀ m, build p entries ≠ .next m) → build p (entries ++ [(r, target)]) = build p entries)

/-- `run_until` overshoots its budget by at most six cycles, and stops for it only when it is used up (40_cycle_engine.md
R425; decision D17). -/
def Obligations.RunUntilOvershoot : Prop :=
  ∀ (pred : View → Bool) (budget used : Nat) (s t : State), s.seq = .boundary →
    (runUntil pred budget s = .satisfied used t → used ≤ budget + 6 ∧ pred t.view = true) ∧
    (runUntil pred budget s = .budgetExhausted used t → budget ≤ used ∧ used ≤ budget + 6 ∧ pred t.view = false)

/-! ### The Address Map and the clock -/

/-- Address translation (20_memory.md R205): on a well-formed bus an address in an entry's range reaches that entry's
device, at the address minus the base plus the offset, within the device, and an access is that device's read or
write there; an address in no entry's range reaches no device. The clock tick (40_cycle_engine.md R400, R401): the
counter, the phase, the access, then every device once in tick order, the k-th driving the lines as the source
at place k; a cycle at an unmapped address ticks no device. Decisions D3, D12; what an external device does is
open (log 3), and that its declared range starts at local address 0 is the model's choice (log 22). -/
def Obligations.AddressMapAndTicks : Prop :=
  (∀ b : Bus, b.wf = true →
    let inside (e : MapEntry) (a : Word) : Prop :=
      e.range.base.toNat ≤ a.toNat ∧ a.toNat < e.range.base.toNat + e.range.length
    (∀ e ∈ b.map, ∀ a, inside e a → ∃ d, b.devices[e.device]? = some d ∧
      let l := a.toNat - e.range.base.toNat + e.range.offset.toNat
      let put := fun p : Device × Lines => { b with devices := b.devices.set e.device p.1, lines := p.2 }
      l < d.size ∧ b.resolve a = some (e.device, l) ∧
        b.read a = some (d.readValue l, put (d.afterRead e.device l b.lines)) ∧
        ∀ v, b.write a v = some (put (d.afterWrite e.device l v b.lines))) ∧
    (∀ a, (∀ e ∈ b.map, ¬inside e a) →
      b.resolve a = none ∧ b.mapped a = false ∧ b.read a = none ∧ ∀ v, b.write a v = none)) ∧
  (∀ (b : Bus) (earlier : List Device) (d : Device),
    let before := ({ b with devices := earlier } : Bus).tick
    let ticked := d.afterTick earlier.length before.lines
    ({ b with devices := [] } : Bus).tick = { b with devices := [] } ∧
    ({ b with devices := earlier ++ [d] } : Bus).tick =
      { b with devices := before.devices ++ [ticked.1], lines := ticked.2 }) ∧
  (∀ (r : Run) (a : Word) (v : Byte),
    let phase := match r.m.phase with
      | .configuring => Phase.running
      | p => p
    (∀ b, r.m.bus.read a = some (v, b) → ∃ t, readCycle a r = .ok v t ∧ t.m.bus = b.tick ∧
      t.m.cycles = r.m.cycles + 1 ∧ t.m.phase = phase ∧ t.m.trace = r.m.trace ++ [rd a v] ∧ t.m.regs = r.m.regs) ∧
    (∀ b, r.m.bus.write a v = some b → ∃ t, writeCycle a v r = .ok () t ∧ t.m.bus = b.tick ∧
      t.m.cycles = r.m.cycles + 1 ∧ t.m.phase = phase ∧ t.m.trace = r.m.trace ++ [wr a v] ∧ t.m.regs = r.m.regs) ∧
    (r.m.bus.mapped a = false →
      (∃ t, readCycle a r = .error (.unmappedAccess a .read) t ∧ t.m.bus = r.m.bus ∧
        t.m.cycles = r.m.cycles + 1 ∧ t.m.trace = r.m.trace) ∧
      ∃ t, writeCycle a v r = .error (.unmappedAccess a .write) t ∧ t.m.bus = r.m.bus ∧
        t.m.cycles = r.m.cycles + 1 ∧ t.m.trace = r.m.trace))
end

