-- ==== Sys2Proof/Laws/Memory.lean ====
section
/-! SUPPORT. The laws of the byte arrays: a byte just written is read back, every other byte is left alone, and
every operation keeps the canonical form. -/

namespace Sys2Proof.Machine

/-- A cell put before a memory is read at its own address, where the rest does not list that address. -/
theorem Memory.read_cons (l : Nat) (v : Byte) (m : Memory) (h : Memory.read m l = Memory.unlisted) :
    Memory.read (Memory.cons l v m) l = v := by
  unfold Memory.cons
  split
  · simp_all
  · simp [Memory.read]

/-- A cell put before a memory does not show at another address. -/
theorem Memory.read_cons_other (l k : Nat) (v : Byte) (m : Memory) (h : k ≠ l) :
    Memory.read (Memory.cons l v m) k = Memory.read m k := by
  unfold Memory.cons
  split
  · rfl
  · simp [Memory.read, Ne.symm h]

/-- In a canonical memory no address below the first one is listed. -/
theorem Memory.read_below {size first : Nat} {m : Memory} {l : Nat} (hm : Memory.wfFrom size first m = true)
    (hl : l < first) : Memory.read m l = Memory.unlisted := by
  induction m generalizing first with
  | nil => rfl
  | cons c rest ih =>
    obtain ⟨k, v⟩ := c
    simp only [Memory.wfFrom, Bool.and_eq_true, decide_eq_true_eq] at hm
    rw [Memory.read, if_neg (by omega)]
    exact ih hm.2 (by omega)

/-- A byte written is read back (20_memory.md R208). -/
theorem Memory.read_write_same {size first : Nat} {m : Memory} {l : Nat} (v : Byte)
    (hm : Memory.wfFrom size first m = true) : Memory.read (Memory.write m l v) l = v := by
  induction m generalizing first with
  | nil => exact Memory.read_cons l v [] rfl
  | cons c rest ih =>
    obtain ⟨k, u⟩ := c
    simp only [Memory.wfFrom, Bool.and_eq_true, decide_eq_true_eq] at hm
    unfold Memory.write
    split
    · refine Memory.read_cons l v _ ?_
      rw [Memory.read, if_neg (by omega)]
      exact Memory.read_below hm.2 (by omega)
    · split
      · exact Memory.read_cons l v _ (Memory.read_below hm.2 (by omega))
      · rw [Memory.read, if_neg (by omega)]
        exact ih hm.2

/-- A write leaves every other byte alone. -/
theorem Memory.read_write_other (m : Memory) {l k : Nat} (v : Byte) (h : k ≠ l) :
    Memory.read (Memory.write m l v) k = Memory.read m k := by
  induction m with
  | nil => exact Memory.read_cons_other l k v [] h
  | cons c rest ih =>
    obtain ⟨j, u⟩ := c
    unfold Memory.write
    split
    · exact Memory.read_cons_other l k v _ h
    · split
      · rename_i hj
        rw [Memory.read_cons_other l k v rest h, Memory.read, if_neg (by omega)]
      · simp only [Memory.read]
        split
        · rfl
        · exact ih

/-- The canonical form holds from any smaller address on. -/
theorem Memory.wfFrom_mono {size first first' : Nat} {m : Memory} (h : Memory.wfFrom size first m = true)
    (hf : first' ≤ first) : Memory.wfFrom size first' m = true := by
  cases m with
  | nil => rfl
  | cons c rest =>
    simp only [Memory.wfFrom, Bool.and_eq_true, decide_eq_true_eq] at h ⊢
    exact ⟨⟨⟨by omega, h.1.1.2⟩, h.1.2⟩, h.2⟩

/-- A cell put before a canonical memory. -/
theorem Memory.wfFrom_cons {size first l : Nat} {v : Byte} {m : Memory} (hf : first ≤ l) (hl : l < size)
    (hm : Memory.wfFrom size (l + 1) m = true) : Memory.wfFrom size first (Memory.cons l v m) = true := by
  unfold Memory.cons
  split
  · exact Memory.wfFrom_mono hm (by omega)
  · simp [Memory.wfFrom, *]

/-- A write inside the device's size keeps the canonical form, from `first` on. -/
theorem Memory.wfFrom_write {size first l : Nat} (v : Byte) {m : Memory} (hm : Memory.wfFrom size first m = true)
    (hf : first ≤ l) (hl : l < size) : Memory.wfFrom size first (Memory.write m l v) = true := by
  induction m generalizing first with
  | nil => exact Memory.wfFrom_cons hf hl rfl
  | cons c rest ih =>
    obtain ⟨k, u⟩ := c
    have hc := hm
    simp only [Memory.wfFrom, Bool.and_eq_true, decide_eq_true_eq] at hm
    unfold Memory.write
    split
    · refine Memory.wfFrom_cons hf hl ?_
      simp only [Memory.wfFrom, Bool.and_eq_true, decide_eq_true_eq]
      exact ⟨⟨⟨by omega, hm.1.1.2⟩, hm.1.2⟩, hm.2⟩
    · split
      · rename_i hk
        exact Memory.wfFrom_cons hf hl (hk ▸ hm.2)
      · simp only [Memory.wfFrom, Bool.and_eq_true, decide_eq_true_eq]
        exact ⟨⟨⟨hm.1.1.1, hm.1.1.2⟩, hm.1.2⟩, ih hm.2 (by omega)⟩

/-- Every memory operation keeps `Memory.wf`. -/
theorem Memory.wf_write {size l : Nat} (v : Byte) {m : Memory} (hm : Memory.wf size m = true)
    (hl : l < size) : Memory.wf size (Memory.write m l v) = true :=
  Memory.wfFrom_write v hm (Nat.zero_le l) hl

/-- The empty memory is canonical. -/
theorem Memory.wf_nil (size : Nat) : Memory.wf size [] = true := rfl

end Sys2Proof.Machine
end

