-- ==== Sys2Proof/Laws/State.lean ====
section
/-! SUPPORT. What each named update of the machine's records does to each field, so that no later proof
unfolds an update. -/

namespace Sys2Proof.Machine

/-! ### Bytes and words -/

/-- The value of two bytes. -/
theorem word_toNat (h l : Byte) : (word h l).toNat = h.toNat * 256 + l.toNat := by
  have hl := l.isLt
  have := BitVec.toNat_append h l
  rw [← Nat.shiftLeft_add_eq_or_of_lt hl, Nat.shiftLeft_eq] at this
  exact this

theorem lo8_toNat (w : Word) : (lo8 w).toNat = w.toNat % 256 := by
  simp [lo8]

theorem hi8_toNat (w : Word) : (hi8 w).toNat = w.toNat / 256 := by
  have := w.isLt
  simp only [hi8, BitVec.toNat_setWidth, BitVec.toNat_ushiftRight, Nat.shiftRight_eq_div_pow]
  omega

@[simp] theorem lo8_word (h l : Byte) : lo8 (word h l) = l := by
  apply BitVec.eq_of_toNat_eq
  have := l.isLt
  rw [lo8_toNat, word_toNat]
  omega

@[simp] theorem hi8_word (h l : Byte) : hi8 (word h l) = h := by
  apply BitVec.eq_of_toNat_eq
  have := l.isLt
  rw [hi8_toNat, word_toNat]
  omega

/-- A 16-bit value is its two bytes. -/
theorem word_hi8_lo8 (w : Word) : word (hi8 w) (lo8 w) = w := by
  apply BitVec.eq_of_toNat_eq
  rw [word_toNat, hi8_toNat, lo8_toNat]
  omega

/-! ### `Run.clock` -/

@[simp] theorem Run.clock_regs (r : Run) : r.clock.m.regs = r.m.regs := rfl
@[simp] theorem Run.clock_nmiPrev (r : Run) : r.clock.m.nmiPrev = r.m.nmiPrev := rfl
@[simp] theorem Run.clock_bus (r : Run) : r.clock.m.bus = r.m.bus := rfl
@[simp] theorem Run.clock_cycles (r : Run) : r.clock.m.cycles = r.m.cycles + 1 := rfl
@[simp] theorem Run.clock_phase (r : Run) : r.clock.m.phase = r.m.phase.ticked := rfl
@[simp] theorem Run.clock_params (r : Run) : r.clock.m.params = r.m.params := rfl
@[simp] theorem Run.clock_trace (r : Run) : r.clock.m.trace = r.m.trace := rfl
@[simp] theorem Run.clock_result (r : Run) : r.clock.m.result = r.m.result := rfl
@[simp] theorem Run.clock_done (r : Run) : r.clock.q.done = r.q.done + 1 := rfl
@[simp] theorem Run.clock_latch (r : Run) : r.clock.q.latch = r.q.latch := rfl
@[simp] theorem Run.clock_startRegs (r : Run) : r.clock.q.startRegs = r.q.startRegs := rfl
@[simp] theorem Run.clock_startNmiPrev (r : Run) : r.clock.q.startNmiPrev = r.q.startNmiPrev := rfl

/-! ### `Run.accessed` -/

@[simp] theorem Run.accessed_regs (r : Run) (b c) : (r.accessed b c).m.regs = r.m.regs := rfl
@[simp] theorem Run.accessed_nmiPrev (r : Run) (b c) : (r.accessed b c).m.nmiPrev = r.m.nmiPrev := rfl
@[simp] theorem Run.accessed_bus (r : Run) (b c) : (r.accessed b c).m.bus = b := rfl
@[simp] theorem Run.accessed_cycles (r : Run) (b c) : (r.accessed b c).m.cycles = r.m.cycles := rfl
@[simp] theorem Run.accessed_phase (r : Run) (b c) : (r.accessed b c).m.phase = r.m.phase := rfl
@[simp] theorem Run.accessed_params (r : Run) (b c) : (r.accessed b c).m.params = r.m.params := rfl
@[simp] theorem Run.accessed_trace (r : Run) (b c) : (r.accessed b c).m.trace = r.m.trace ++ [c] := rfl
@[simp] theorem Run.accessed_result (r : Run) (b c) : (r.accessed b c).m.result = r.m.result := rfl
@[simp] theorem Run.accessed_q (r : Run) (b c) : (r.accessed b c).q = r.q := rfl

/-! ### `Run.sampled` -/

@[simp] theorem Run.sampled_regs (r : Run) : r.sampled.m.regs = r.m.regs := rfl
@[simp] theorem Run.sampled_nmiPrev (r : Run) :
    r.sampled.m.nmiPrev = r.m.bus.lines.nmi.asserted := rfl
@[simp] theorem Run.sampled_bus (r : Run) : r.sampled.m.bus = r.m.bus := rfl
@[simp] theorem Run.sampled_cycles (r : Run) : r.sampled.m.cycles = r.m.cycles := rfl
@[simp] theorem Run.sampled_phase (r : Run) : r.sampled.m.phase = r.m.phase := rfl
@[simp] theorem Run.sampled_params (r : Run) : r.sampled.m.params = r.m.params := rfl
@[simp] theorem Run.sampled_trace (r : Run) : r.sampled.m.trace = r.m.trace := rfl
@[simp] theorem Run.sampled_result (r : Run) : r.sampled.m.result = r.m.result := rfl
@[simp] theorem Run.sampled_q (r : Run) : r.sampled.q = r.q := rfl

/-! ### `Run.finish` -/

@[simp] theorem Run.finish_regs (r : Run) : r.finish.regs = r.m.regs := rfl
@[simp] theorem Run.finish_nmiPrev (r : Run) : r.finish.nmiPrev = r.m.nmiPrev := rfl
@[simp] theorem Run.finish_seq (r : Run) : r.finish.seq = .boundary := rfl
@[simp] theorem Run.finish_bus (r : Run) : r.finish.bus = r.m.bus := rfl
@[simp] theorem Run.finish_cycles (r : Run) : r.finish.cycles = r.m.cycles := rfl
@[simp] theorem Run.finish_phase (r : Run) : r.finish.phase = r.m.phase := rfl
@[simp] theorem Run.finish_params (r : Run) : r.finish.params = r.m.params := rfl
@[simp] theorem Run.finish_trace (r : Run) : r.finish.trace = r.m.trace := rfl
@[simp] theorem Run.finish_result (r : Run) : r.finish.result = ⟨r.q.done, r.m.result.reports⟩ := rfl

/-! ### `Run.halt` -/

@[simp] theorem Run.halt_regs (r : Run) (k) : (r.halt k).regs = r.q.startRegs := rfl
@[simp] theorem Run.halt_nmiPrev (r : Run) (k) : (r.halt k).nmiPrev = r.q.startNmiPrev := rfl
@[simp] theorem Run.halt_seq (r : Run) (k) : (r.halt k).seq = .boundary := rfl
@[simp] theorem Run.halt_bus (r : Run) (k) : (r.halt k).bus = r.m.bus := rfl
@[simp] theorem Run.halt_cycles (r : Run) (k) : (r.halt k).cycles = r.m.cycles := rfl
@[simp] theorem Run.halt_phase (r : Run) (k) :
    (r.halt k).phase = .halted ⟨k, r.q.startRegs.pc, r.m.cycles, r.q.done⟩ := rfl
@[simp] theorem Run.halt_params (r : Run) (k) : (r.halt k).params = r.m.params := rfl
@[simp] theorem Run.halt_trace (r : Run) (k) : (r.halt k).trace = r.m.trace := rfl
@[simp] theorem Run.halt_result (r : Run) (k) : (r.halt k).result = ⟨r.q.done, []⟩ := rfl

/-! ### `Run.leave` and `State.enter` -/

@[simp] theorem Run.leave_regs (r : Run) : r.leave.regs = r.m.regs := rfl
@[simp] theorem Run.leave_nmiPrev (r : Run) : r.leave.nmiPrev = r.m.nmiPrev := rfl
@[simp] theorem Run.leave_bus (r : Run) : r.leave.bus = r.m.bus := rfl
@[simp] theorem Run.leave_cycles (r : Run) : r.leave.cycles = r.m.cycles := rfl
@[simp] theorem Run.leave_phase (r : Run) : r.leave.phase = r.m.phase := rfl
@[simp] theorem Run.leave_params (r : Run) : r.leave.params = r.m.params := rfl
@[simp] theorem Run.leave_trace (r : Run) : r.leave.trace = r.m.trace := rfl
@[simp] theorem Run.leave_result (r : Run) : r.leave.result = r.m.result := rfl
@[simp] theorem Run.leave_enter_q (r : Run) : r.leave.enter.q = r.q := rfl
@[simp] theorem Run.leave_enter_m (r : Run) : r.leave.enter.m = r.leave := rfl

@[simp] theorem State.enter_regs (s : State) : s.enter.m.regs = s.regs := by
  unfold State.enter; split <;> rfl
@[simp] theorem State.enter_nmiPrev (s : State) : s.enter.m.nmiPrev = s.nmiPrev := by
  unfold State.enter; split <;> rfl
@[simp] theorem State.enter_bus (s : State) : s.enter.m.bus = s.bus := by
  unfold State.enter; split <;> rfl
@[simp] theorem State.enter_cycles (s : State) : s.enter.m.cycles = s.cycles := by
  unfold State.enter; split <;> rfl
@[simp] theorem State.enter_phase (s : State) : s.enter.m.phase = s.phase := by
  unfold State.enter; split <;> rfl
@[simp] theorem State.enter_params (s : State) : s.enter.m.params = s.params := by
  unfold State.enter; split <;> rfl

/-- A sequence that starts at a boundary has observed nothing and done nothing. -/
theorem State.enter_boundary {s : State} (h : s.seq = .boundary) :
    s.enter = ⟨{ s with trace := [], result := ⟨0, []⟩ }, ⟨0, .fresh, s.regs, s.nmiPrev⟩⟩ := by
  unfold State.enter; rw [h]

/-! ### `State.after` -/

@[simp] theorem State.after_regs (s : State) (cs b g) : (s.after cs b g).regs = g := rfl
@[simp] theorem State.after_nmiPrev (s : State) (cs b g) : (s.after cs b g).nmiPrev = s.nmiPrev := rfl
@[simp] theorem State.after_seq (s : State) (cs b g) : (s.after cs b g).seq = .boundary := rfl
@[simp] theorem State.after_bus (s : State) (cs b g) : (s.after cs b g).bus = b := rfl
@[simp] theorem State.after_cycles (s : State) (cs b g) :
    (s.after cs b g).cycles = s.cycles + cs.length := rfl
@[simp] theorem State.after_phase (s : State) (cs b g) :
    (s.after cs b g).phase = s.phase.afterCycles cs := rfl
@[simp] theorem State.after_params (s : State) (cs b g) : (s.after cs b g).params = s.params := rfl
@[simp] theorem State.after_trace (s : State) (cs b g) :
    (s.after cs b g).trace = s.enter.m.trace ++ cs := rfl
@[simp] theorem State.after_result (s : State) (cs b g) :
    (s.after cs b g).result = ⟨s.enter.q.done + cs.length, s.enter.m.result.reports⟩ := rfl

/-! ### Phases -/

@[simp] theorem Phase.ticked_ticked (p : Phase) : p.ticked.ticked = p.ticked := by cases p <;> rfl
@[simp] theorem Phase.afterCycles_nil (p : Phase) : p.afterCycles [] = p := rfl
@[simp] theorem Phase.afterCycles_cons (p : Phase) (c cs) : p.afterCycles (c :: cs) = p.ticked := rfl

/-- The ticks of two lists of cycles, one after the other. -/
theorem Phase.afterCycles_append (p : Phase) (cs ds) :
    p.afterCycles (cs ++ ds) = (p.afterCycles cs).afterCycles ds := by
  cases cs <;> cases ds <;> simp

/-- A tick after a list of cycles. -/
@[simp] theorem Phase.afterCycles_ticked (p : Phase) (cs) : (p.afterCycles cs).ticked = p.ticked := by
  cases cs <;> simp

/-! ### Registers -/

@[simp] theorem Regs.nz_a (g : Regs) (r) : (g.nz r).a = g.a := rfl
@[simp] theorem Regs.nz_x (g : Regs) (r) : (g.nz r).x = g.x := rfl
@[simp] theorem Regs.nz_y (g : Regs) (r) : (g.nz r).y = g.y := rfl
@[simp] theorem Regs.nz_s (g : Regs) (r) : (g.nz r).s = g.s := rfl
@[simp] theorem Regs.nz_pc (g : Regs) (r) : (g.nz r).pc = g.pc := rfl
@[simp] theorem Regs.nz_n (g : Regs) (r) : (g.nz r).n = r.getLsbD 7 := rfl
@[simp] theorem Regs.nz_v (g : Regs) (r) : (g.nz r).v = g.v := rfl
@[simp] theorem Regs.nz_d (g : Regs) (r) : (g.nz r).d = g.d := rfl
@[simp] theorem Regs.nz_i (g : Regs) (r) : (g.nz r).i = g.i := rfl
@[simp] theorem Regs.nz_z (g : Regs) (r) : (g.nz r).z = (r == 0) := rfl
@[simp] theorem Regs.nz_c (g : Regs) (r) : (g.nz r).c = g.c := rfl

@[simp] theorem Regs.loadP_a (g : Regs) (v) : (g.loadP v).a = g.a := rfl
@[simp] theorem Regs.loadP_x (g : Regs) (v) : (g.loadP v).x = g.x := rfl
@[simp] theorem Regs.loadP_y (g : Regs) (v) : (g.loadP v).y = g.y := rfl
@[simp] theorem Regs.loadP_s (g : Regs) (v) : (g.loadP v).s = g.s := rfl
@[simp] theorem Regs.loadP_pc (g : Regs) (v) : (g.loadP v).pc = g.pc := rfl

end Sys2Proof.Machine
end

