-- ==== Sys2Proof/Laws/Bus.lean ====
section
/-! SUPPORT. What a read, a write, a tick and a list of replayed cycles do to a bus: the map and the places of
the devices never change, a RAM or ROM byte changes only where a write reaches it, and a well-formed bus
stays well-formed. -/

namespace Sys2Proof.Machine

/-! ### Lines -/

/-- An insertion keeps a strictly rising list. -/
theorem risingFrom_insert {bound first n : Nat} {ps : List Nat} (h : risingFrom bound first ps = true)
    (hf : first ≤ n) (hn : n < bound) : risingFrom bound first (insertPlace n ps) = true := by
  induction ps generalizing first with
  | nil => simp [insertPlace, risingFrom, hf, hn]
  | cons k rest ih =>
    have hk := h
    simp only [risingFrom, Bool.and_eq_true, decide_eq_true_eq] at h
    unfold insertPlace
    split
    · simp only [risingFrom, Bool.and_eq_true, decide_eq_true_eq]
      exact ⟨⟨hf, hn⟩, ⟨by omega, h.1.2⟩, h.2⟩
    · split
      · exact hk
      · simp only [risingFrom, Bool.and_eq_true, decide_eq_true_eq]
        exact ⟨h.1, ih h.2 (by omega)⟩

/-- A strictly rising list is one from any smaller place on. -/
theorem risingFrom_mono {bound first first' : Nat} {ps : List Nat} (h : risingFrom bound first ps = true)
    (hf : first' ≤ first) : risingFrom bound first' ps = true := by
  cases ps with
  | nil => rfl
  | cons k rest =>
    simp only [risingFrom, Bool.and_eq_true, decide_eq_true_eq] at h ⊢
    exact ⟨⟨by omega, h.1.2⟩, h.2⟩

/-- A removal keeps a strictly rising list. -/
theorem risingFrom_filter {bound first : Nat} {ps : List Nat} (p : Nat → Bool)
    (h : risingFrom bound first ps = true) : risingFrom bound first (ps.filter p) = true := by
  induction ps generalizing first with
  | nil => rfl
  | cons k rest ih =>
    simp only [risingFrom, Bool.and_eq_true, decide_eq_true_eq] at h
    by_cases hp : p k = true
    · simp only [List.filter_cons_of_pos hp, risingFrom, Bool.and_eq_true, decide_eq_true_eq]
      exact ⟨h.1, ih h.2⟩
    · rw [List.filter_cons_of_neg hp]
      exact risingFrom_mono (ih h.2) (by omega)

/-- The places of a line's set after a device's is put into it. -/
theorem mem_insertPlace (n k : Nat) (ps : List Nat) : k ∈ insertPlace n ps ↔ k = n ∨ k ∈ ps := by
  induction ps with
  | nil => simp [insertPlace]
  | cons p rest ih =>
    unfold insertPlace
    split
    · simp
    · split
      · subst_vars; simp
      · simp [ih]; tauto

/-- A device's drive of a line changes its own place in the set and no other source. -/
theorem Line.drive_sources (l : Line) (n k : Nat) (d : LineDrive) : (l.drive n d).host = l.host ∧
    (k ∈ (l.drive n d).devices ↔ if k = n then d = .assert ∨ d = .keep ∧ n ∈ l.devices else k ∈ l.devices) := by
  cases d <;> refine ⟨rfl, ?_⟩ <;> simp only [Line.drive, mem_insertPlace, List.mem_filter] <;> split <;> simp_all

/-- A device's drive keeps a line's canonical form. -/
theorem Line.wf_drive {bound n : Nat} {l : Line} (d : LineDrive) (h : l.wf bound = true) (hn : n < bound) :
    (l.drive n d).wf bound = true := by
  cases d with
  | keep => exact h
  | assert => exact risingFrom_insert h (Nat.zero_le n) hn
  | deassert => exact risingFrom_filter _ h

/-! ### Devices -/

/-- A device read keeps the device's size and its well-formedness. -/
theorem Device.afterRead_size (d : Device) (n l ls) : (d.afterRead n l ls).1.size = d.size := by
  cases d <;> rfl

theorem Device.afterWrite_size (d : Device) (n l v ls) : (d.afterWrite n l v ls).1.size = d.size := by
  cases d <;> rfl

theorem Device.afterTick_size (d : Device) (n ls) : (d.afterTick n ls).1.size = d.size := by
  cases d <;> rfl

theorem Device.afterRead_wf {d : Device} (n l ls) (h : d.wf = true) : (d.afterRead n l ls).1.wf = true := by
  cases d <;> exact h

theorem Device.afterTick_wf {d : Device} (n ls) (h : d.wf = true) : (d.afterTick n ls).1.wf = true := by
  cases d <;> exact h

theorem Device.afterWrite_wf {d : Device} {l : Nat} (n v ls) (h : d.wf = true) (hl : l < d.size) :
    (d.afterWrite n l v ls).1.wf = true := by
  cases d with
  | ram size cells =>
    simp only [Device.wf, Bool.and_eq_true, Device.afterWrite] at h ⊢
    exact ⟨h.1, Memory.wf_write v h.2 hl⟩
  | rom size image => exact h
  | other kind size st => exact h

/-- What a device does to the lines in one call is a drive at its place, or nothing. -/
def DrivesAt (n : Nat) (ls ls' : Lines) : Prop := ls' = ls ∨ ∃ r, ls' = ls.drive n r

theorem Device.afterRead_lines (d : Device) (n l ls) : DrivesAt n ls (d.afterRead n l ls).2 := by
  cases d with
  | ram => exact .inl rfl
  | rom => exact .inl rfl
  | other => exact .inr ⟨_, rfl⟩

theorem Device.afterWrite_lines (d : Device) (n l v ls) : DrivesAt n ls (d.afterWrite n l v ls).2 := by
  cases d with
  | ram => exact .inl rfl
  | rom => exact .inl rfl
  | other => exact .inr ⟨_, rfl⟩

theorem Device.afterTick_lines (d : Device) (n ls) : DrivesAt n ls (d.afterTick n ls).2 := by
  cases d with
  | ram => exact .inl rfl
  | rom => exact .inl rfl
  | other => exact .inr ⟨_, rfl⟩

/-- The canonical form of both lines. -/
def Lines.wf (bound : Nat) (ls : Lines) : Prop := ls.nmi.wf bound = true ∧ ls.irq.wf bound = true

theorem Lines.wf_drivesAt {bound n : Nat} {ls ls' : Lines} (h : ls.wf bound) (hn : n < bound)
    (hd : DrivesAt n ls ls') : ls'.wf bound := by
  obtain rfl | ⟨r, rfl⟩ := hd
  · exact h
  · exact ⟨Line.wf_drive _ h.1 hn, Line.wf_drive _ h.2 hn⟩

/-- The byte a RAM or ROM holds at a local address. -/
def Device.peek (d : Device) (l : Nat) : Option Byte :=
  match d with
  | .ram _ cells => some (Memory.read cells l)
  | .rom _ image => some (Memory.read image l)
  | .other _ _ _ => none

@[simp] theorem Device.afterRead_peek (d : Device) (n l ls k) : (d.afterRead n l ls).1.peek k = d.peek k := by
  cases d <;> rfl

@[simp] theorem Device.afterTick_peek (d : Device) (n ls k) : (d.afterTick n ls).1.peek k = d.peek k := by
  cases d <;> rfl

theorem Device.afterWrite_peek_other (d : Device) (n v ls) {l k : Nat} (h : k ≠ l) :
    (d.afterWrite n l v ls).1.peek k = d.peek k := by
  cases d with
  | ram size cells => simp [Device.afterWrite, Device.peek, Memory.read_write_other cells v h]
  | rom => rfl
  | other => rfl

/-- A device that holds a byte reads it. -/
theorem Device.readValue_of_peek {d : Device} {l : Nat} {v : Byte} (h : d.peek l = some v) :
    d.readValue l = v := by
  cases d <;> simp_all [Device.peek, Device.readValue]

/-! ### Ticks -/

theorem tickFrom_length (n ds ls) : (tickFrom n ds ls).1.length = ds.length := by
  induction ds generalizing n ls with
  | nil => rfl
  | cons d rest ih => simp [tickFrom, ih]

/-- After the ticks, each place holds its own device, ticked once. -/
theorem tickFrom_get (n : Nat) (ds : List Device) (ls : Lines) (k : Nat) {d : Device}
    (h : (tickFrom n ds ls).1[k]? = some d) :
    ∃ (d₀ : Device) (n' : Nat) (ls' : Lines), ds[k]? = some d₀ ∧ d = (d₀.afterTick n' ls').1 := by
  induction ds generalizing n ls k with
  | nil => simp [tickFrom] at h
  | cons e rest ih =>
    cases k with
    | zero =>
      simp only [tickFrom, List.getElem?_cons_zero, Option.some.injEq] at h
      exact ⟨e, n, ls, rfl, h.symm⟩
    | succ k =>
      simp only [tickFrom, List.getElem?_cons_succ] at h
      exact ih _ _ _ h

theorem tickFrom_lines {bound : Nat} (n ds ls) (h : ls.wf bound) (hn : n + ds.length ≤ bound) :
    (tickFrom n ds ls).2.wf bound := by
  induction ds generalizing n ls with
  | nil => exact h
  | cons d rest ih =>
    simp only [List.length_cons] at hn
    exact ih _ _ (Lines.wf_drivesAt h (by omega) (d.afterTick_lines n ls)) (by omega)

/-- One more device at the end of the tick list ticks after the others, at its own place. -/
theorem tickFrom_snoc (n : Nat) (ds : List Device) (d : Device) (ls : Lines) :
    tickFrom n (ds ++ [d]) ls =
      ((tickFrom n ds ls).1 ++ [(d.afterTick (n + ds.length) (tickFrom n ds ls).2).1],
        (d.afterTick (n + ds.length) (tickFrom n ds ls).2).2) := by
  induction ds generalizing n ls with
  | nil => rfl
  | cons e rest ih => simp [tickFrom, ih, Nat.add_comm, Nat.add_left_comm]

/-! ### Resolution -/

theorem Range.contains_iff (r : Range) (a : Word) :
    r.contains a = true ↔ r.base.toNat ≤ a.toNat ∧ a.toNat < r.base.toNat + r.length := by
  simp [Range.contains]

theorem Range.overlaps_iff (r q : Range) : r.overlaps q = true ↔
    r.base.toNat < q.base.toNat + q.length ∧ q.base.toNat < r.base.toNat + r.length := by
  simp [Range.overlaps]

/-- Resolution looks only at the map and the number of devices. -/
theorem Bus.resolve_congr {b b' : Bus} (hm : b'.map = b.map) (hd : b'.devices.length = b.devices.length)
    (a : Word) : b'.resolve a = b.resolve a := by
  unfold Bus.resolve; rw [hm, hd]

theorem Bus.resolve_place {b : Bus} {a : Word} {n l : Nat} (h : b.resolve a = some (n, l)) :
    n < b.devices.length := by
  unfold Bus.resolve at h
  split at h
  · split at h
    · cases h; assumption
    · cases h
  · cases h

theorem Bus.resolve_device {b : Bus} {a : Word} {n l : Nat} (h : b.resolve a = some (n, l)) :
    ∃ d, b.devices[n]? = some d :=
  ⟨_, List.getElem?_eq_getElem (Bus.resolve_place h)⟩

/-- On a well-formed bus a resolved local address lies in its device. -/
theorem Bus.resolve_local {b : Bus} {a : Word} {n l : Nat} {d : Device} (hb : b.wf = true)
    (h : b.resolve a = some (n, l)) (hd : b.devices[n]? = some d) : l < d.size := by
  unfold Bus.resolve at h
  split at h
  · rename_i e he
    split at h
    · cases h
      have hmem := List.mem_of_find?_eq_some he
      have hcon := List.find?_some he
      simp only [Bus.wf, Bool.and_eq_true, List.all_eq_true] at hb
      have hw := hb.1.1.1.1 e hmem
      simp only [MapEntry.wf, hd, Bool.and_eq_true, decide_eq_true_eq] at hw
      simp only [Range.contains, Bool.and_eq_true, decide_eq_true_eq] at hcon
      simp only [Range.localOf]
      omega
    · cases h
  · cases h

/-- In a list of disjoint entries, an address is found in the one entry that contains it. -/
theorem find_contains {map : List MapEntry} (hd : disjointEntries map = true) {e : MapEntry} (he : e ∈ map) {a : Word}
    (ha : e.range.contains a = true) : map.find? (fun e => e.range.contains a) = some e := by
  induction map with
  | nil => cases he
  | cons f rest ih =>
    simp only [disjointEntries, Bool.and_eq_true, List.all_eq_true, Bool.not_eq_true'] at hd
    rcases List.mem_cons.mp he with rfl | he
    · simp [ha]
    · have hf : f.range.contains a = false := by
        by_contra hc
        rw [Bool.not_eq_false, Range.contains_iff] at hc
        have ho := hd.1 e he
        rw [Range.contains_iff] at ha
        rw [← Bool.not_eq_true, Range.overlaps_iff] at ho
        omega
      simp [hf, ih hd.2 he]

/-- On a well-formed bus an address in an entry's range resolves to that entry's device, inside it. -/
theorem Bus.resolve_of_mem {b : Bus} (hb : b.wf = true) {e : MapEntry} (he : e ∈ b.map) {a : Word}
    (ha : e.range.contains a = true) :
    ∃ d, b.devices[e.device]? = some d ∧ b.resolve a = some (e.device, e.range.localOf a) := by
  have hb' := hb
  simp only [Bus.wf, Bool.and_eq_true, List.all_eq_true] at hb'
  have hw := hb'.1.1.1.1 e he
  cases hd : b.devices[e.device]? with
  | none => simp [MapEntry.wf, hd] at hw
  | some d =>
    have hl := (List.getElem?_eq_some_iff.mp hd).1
    exact ⟨d, rfl, by simp [Bus.resolve, find_contains hb'.1.1.1.2 he ha, hl]⟩

/-- An address in no entry's range resolves to nothing. -/
theorem Bus.resolve_hole {b : Bus} {a : Word} (h : ∀ e ∈ b.map, e.range.contains a = false) : b.resolve a = none := by
  have hf : b.map.find? (fun e => e.range.contains a) = none := List.find?_eq_none.mpr (fun e he => by simp [h e he])
  simp [Bus.resolve, hf]

/-! ### One access -/

/-- The shape of a bus one access of one device leaves. -/
def Bus.putDevice (b : Bus) (n : Nat) (p : Device × Lines) : Bus :=
  { b with devices := b.devices.set n p.1, lines := p.2 }

/-- What a read does, said once. -/
theorem Bus.read_cases {b b' : Bus} {a : Word} {v : Byte} (h : b.read a = some (v, b')) :
    ∃ n l d, b.resolve a = some (n, l) ∧ b.devices[n]? = some d ∧ v = d.readValue l ∧
      b' = b.putDevice n (d.afterRead n l b.lines) := by
  unfold Bus.read at h
  split at h
  · cases h
  · rename_i n l hr
    split at h
    · cases h
    · rename_i d hd
      cases h
      exact ⟨n, l, d, hr, hd, rfl, rfl⟩

/-- What a write does, said once. -/
theorem Bus.write_cases {b b' : Bus} {a : Word} {v : Byte} (h : b.write a v = some b') :
    ∃ n l d, b.resolve a = some (n, l) ∧ b.devices[n]? = some d ∧
      b' = b.putDevice n (d.afterWrite n l v b.lines) := by
  unfold Bus.write at h
  split at h
  · cases h
  · rename_i n l hr
    split at h
    · cases h
    · rename_i d hd
      cases h
      exact ⟨n, l, d, hr, hd, rfl⟩

/-- A read answers exactly where the map does. -/
theorem Bus.read_isSome (b : Bus) (a : Word) : (b.read a).isSome = b.mapped a := by
  unfold Bus.read Bus.mapped
  cases h : b.resolve a with
  | none => rfl
  | some p =>
    obtain ⟨n, l⟩ := p
    obtain ⟨d, hd⟩ := Bus.resolve_device h
    simp [hd]

/-- A write answers exactly where the map does. -/
theorem Bus.write_isSome (b : Bus) (a : Word) (v : Byte) : (b.write a v).isSome = b.mapped a := by
  unfold Bus.write Bus.mapped
  cases h : b.resolve a with
  | none => rfl
  | some p =>
    obtain ⟨n, l⟩ := p
    obtain ⟨d, hd⟩ := Bus.resolve_device h
    simp [hd]

theorem Bus.read_of_mapped {b : Bus} {a : Word} (h : b.mapped a = true) : ∃ v b', b.read a = some (v, b') := by
  rw [← Bus.read_isSome, Option.isSome_iff_exists] at h
  obtain ⟨⟨v, b'⟩, h⟩ := h
  exact ⟨v, b', h⟩

theorem Bus.write_of_mapped {b : Bus} {a : Word} (v : Byte) (h : b.mapped a = true) :
    ∃ b', b.write a v = some b' := by
  rwa [← Bus.write_isSome b a v, Option.isSome_iff_exists] at h

theorem Bus.read_none_iff (b : Bus) (a : Word) : b.read a = none ↔ b.mapped a = false := by
  rw [← Bus.read_isSome]; cases b.read a <;> simp

theorem Bus.write_none_iff (b : Bus) (a : Word) (v : Byte) : b.write a v = none ↔ b.mapped a = false := by
  rw [← Bus.write_isSome b a v]; cases b.write a v <;> simp

/-! ### What never changes -/

/-- Two buses with the same map and the same places. -/
def Bus.SameMap (b b' : Bus) : Prop := b'.map = b.map ∧ b'.devices.length = b.devices.length

theorem Bus.SameMap.refl (b : Bus) : b.SameMap b := ⟨rfl, rfl⟩

theorem Bus.SameMap.trans {a b c : Bus} (h : a.SameMap b) (k : b.SameMap c) : a.SameMap c :=
  ⟨k.1.trans h.1, k.2.trans h.2⟩

theorem Bus.SameMap.resolve {b b' : Bus} (h : b.SameMap b') (a : Word) : b'.resolve a = b.resolve a :=
  Bus.resolve_congr h.1 h.2 a

theorem Bus.SameMap.mapped {b b' : Bus} (h : b.SameMap b') (a : Word) : b'.mapped a = b.mapped a := by
  unfold Bus.mapped; rw [h.resolve]

theorem Bus.SameMap.sameCell {b b' : Bus} (h : b.SameMap b') (a e : Word) :
    b'.sameCell a e = b.sameCell a e := by
  unfold Bus.sameCell; rw [h.resolve, h.resolve]

theorem Bus.read_sameMap {b b' : Bus} {a : Word} {v : Byte} (h : b.read a = some (v, b')) : b.SameMap b' := by
  obtain ⟨n, l, d, -, -, -, rfl⟩ := Bus.read_cases h
  exact ⟨rfl, by simp [Bus.putDevice]⟩

theorem Bus.write_sameMap {b b' : Bus} {a : Word} {v : Byte} (h : b.write a v = some b') : b.SameMap b' := by
  obtain ⟨n, l, d, -, -, rfl⟩ := Bus.write_cases h
  exact ⟨rfl, by simp [Bus.putDevice]⟩

theorem Bus.tick_sameMap (b : Bus) : b.SameMap b.tick := ⟨rfl, tickFrom_length _ _ _⟩

/-! ### One byte of memory -/

/-- Looking at a byte, through the device at its place. -/
theorem Bus.peek_eq (b : Bus) (a : Word) :
    b.peek a = (b.resolve a).bind (fun p => (b.devices[p.1]?).bind (fun d => d.peek p.2)) := by
  unfold Bus.peek
  cases b.resolve a with
  | none => rfl
  | some p =>
    obtain ⟨n, l⟩ := p
    simp only [Option.bind_some]
    cases b.devices[n]? with
    | none => rfl
    | some d => cases d <;> rfl

/-- A byte of memory is what a read returns. -/
theorem Bus.read_of_peek {b : Bus} {a : Word} {v : Byte} (h : b.peek a = some v) :
    ∃ b', b.read a = some (v, b') := by
  rw [Bus.peek_eq] at h
  simp only [Option.bind_eq_some_iff, Prod.exists] at h
  obtain ⟨n, l, hr, d, hd, hv⟩ := h
  exact ⟨b.putDevice n (d.afterRead n l b.lines), by
    simp only [Bus.read, hr, hd, Device.readValue_of_peek hv, Bus.putDevice]⟩

theorem Bus.tick_peek (b : Bus) (a : Word) : b.tick.peek a = b.peek a := by
  rw [Bus.peek_eq, Bus.peek_eq, (Bus.tick_sameMap b).resolve]
  cases b.resolve a with
  | none => rfl
  | some p =>
    simp only [Option.bind_some]
    cases h : (tickFrom 0 b.devices b.lines).1[p.1]? with
    | none =>
      have hl : b.devices[p.1]? = none := by
        rw [List.getElem?_eq_none_iff] at h ⊢
        rwa [tickFrom_length] at h
      simp [Bus.tick, h, hl]
    | some d =>
      obtain ⟨d₀, n', ls', hd₀, rfl⟩ := tickFrom_get _ _ _ _ h
      simp [Bus.tick, h, hd₀]

theorem Bus.read_peek {b b' : Bus} {a : Word} {v : Byte} (h : b.read a = some (v, b')) (a' : Word) :
    b'.peek a' = b.peek a' := by
  have hs := Bus.read_sameMap h
  obtain ⟨n, l, d, -, hd, -, rfl⟩ := Bus.read_cases h
  rw [Bus.peek_eq, Bus.peek_eq, hs.resolve]
  cases b.resolve a' with
  | none => rfl
  | some p =>
    simp only [Option.bind_some, Bus.putDevice, List.getElem?_set]
    split
    · rename_i hn
      rw [← hn, hd]
      obtain ⟨hlt, -⟩ := List.getElem?_eq_some_iff.mp hd
      simp [hlt]
    · rfl

/-- A write changes no byte of memory but the one it reaches. -/
theorem Bus.write_peek_other {b b' : Bus} {a : Word} {v : Byte} (h : b.write a v = some b') {a' : Word}
    (ha : b.sameCell a' a = false) : b'.peek a' = b.peek a' := by
  have hs := Bus.write_sameMap h
  obtain ⟨n, l, d, hr, hd, rfl⟩ := Bus.write_cases h
  rw [Bus.peek_eq, Bus.peek_eq, hs.resolve]
  cases hr' : b.resolve a' with
  | none => rfl
  | some p =>
    simp only [Option.bind_some, Bus.putDevice, List.getElem?_set]
    split
    · rename_i hn
      obtain ⟨hlt, -⟩ := List.getElem?_eq_some_iff.mp hd
      obtain ⟨n', l'⟩ := p
      simp only at hn
      subst hn
      have hl : l' ≠ l := by
        rintro rfl
        simp [Bus.sameCell, hr, hr'] at ha
      simp only [hlt, hd, if_true, Option.bind_some, Device.afterWrite_peek_other d _ v b.lines hl]
    · rfl

/-! ### Well-formed buses -/

theorem MapEntry.wf_congr {ds ds' : List Device} {e : MapEntry}
    (h : ∀ n : Nat, (ds'[n]?).map Device.size = (ds[n]?).map Device.size) : e.wf ds' = e.wf ds := by
  have he := h e.device
  unfold MapEntry.wf
  cases h1 : ds'[e.device]? <;> cases h2 : ds[e.device]? <;> simp_all

/-- What keeps a bus well-formed: the map, the sizes of the devices, their well-formedness and that of the
lines. -/
theorem Bus.wf_of {b b' : Bus} (hb : b.wf = true) (hm : b'.map = b.map)
    (hsize : ∀ n : Nat, (b'.devices[n]?).map Device.size = (b.devices[n]?).map Device.size)
    (hdev : ∀ d ∈ b'.devices, d.wf = true) (hl : b'.lines.wf b'.devices.length) : b'.wf = true := by
  simp only [Bus.wf, Bool.and_eq_true, List.all_eq_true] at hb ⊢
  refine ⟨⟨⟨⟨fun e he => ?_, hm ▸ hb.1.1.1.2⟩, hdev⟩, hl.1⟩, hl.2⟩
  rw [MapEntry.wf_congr hsize]
  exact hb.1.1.1.1 e (hm ▸ he)

theorem Bus.wf_lines {b : Bus} (hb : b.wf = true) : b.lines.wf b.devices.length := by
  simp only [Bus.wf, Bool.and_eq_true] at hb
  exact ⟨hb.1.2, hb.2⟩

theorem Bus.wf_device {b : Bus} (hb : b.wf = true) {d : Device} (hd : d ∈ b.devices) : d.wf = true := by
  simp only [Bus.wf, Bool.and_eq_true, List.all_eq_true] at hb
  exact hb.1.1.2 d hd

/-- A well-formed device of the same size put at a place keeps the bus well-formed. -/
theorem Bus.wf_putDevice {b : Bus} {n : Nat} {d : Device} {p : Device × Lines} (hb : b.wf = true)
    (hd : b.devices[n]? = some d) (hs : p.1.size = d.size) (hw : p.1.wf = true)
    (hl : DrivesAt n b.lines p.2) : (b.putDevice n p).wf = true := by
  obtain ⟨hlt, -⟩ := List.getElem?_eq_some_iff.mp hd
  refine Bus.wf_of hb rfl (fun k => ?_) (fun e he => ?_) ?_
  · simp only [Bus.putDevice, List.getElem?_set]
    split
    · rename_i hk
      rw [← hk, hd]
      simp [hs]
    · rfl
  · obtain h | rfl := List.mem_or_eq_of_mem_set he
    · exact Bus.wf_device hb h
    · exact hw
  · have := Lines.wf_drivesAt (Bus.wf_lines hb) hlt hl
    simpa [Bus.putDevice] using this

theorem Bus.read_wf {b b' : Bus} {a : Word} {v : Byte} (hb : b.wf = true) (h : b.read a = some (v, b')) :
    b'.wf = true := by
  obtain ⟨n, l, d, -, hd, -, rfl⟩ := Bus.read_cases h
  exact Bus.wf_putDevice hb hd (d.afterRead_size n l b.lines)
    (Device.afterRead_wf n l b.lines (Bus.wf_device hb (List.mem_of_getElem? hd))) (d.afterRead_lines n l b.lines)

theorem Bus.write_wf {b b' : Bus} {a : Word} {v : Byte} (hb : b.wf = true) (h : b.write a v = some b') :
    b'.wf = true := by
  obtain ⟨n, l, d, hr, hd, rfl⟩ := Bus.write_cases h
  exact Bus.wf_putDevice hb hd (d.afterWrite_size n l v b.lines)
    (Device.afterWrite_wf n v b.lines (Bus.wf_device hb (List.mem_of_getElem? hd)) (Bus.resolve_local hb hr hd))
    (d.afterWrite_lines n l v b.lines)

theorem Bus.tick_wf {b : Bus} (hb : b.wf = true) : b.tick.wf = true := by
  refine Bus.wf_of hb rfl (fun n => ?_) (fun d hd => ?_) ?_
  · change ((tickFrom 0 b.devices b.lines).1[n]?).map Device.size = _
    cases h : (tickFrom 0 b.devices b.lines).1[n]? with
    | none =>
      rw [List.getElem?_eq_none_iff, tickFrom_length, ← List.getElem?_eq_none_iff] at h
      simp [h]
    | some d =>
      obtain ⟨d₀, n', ls', hd₀, rfl⟩ := tickFrom_get _ _ _ _ h
      simp [hd₀, Device.afterTick_size]
  · obtain ⟨n, hn⟩ := List.mem_iff_getElem?.mp hd
    obtain ⟨d₀, n', ls', hd₀, rfl⟩ := tickFrom_get _ _ _ _ hn
    exact Device.afterTick_wf n' ls' (Bus.wf_device hb (List.mem_of_getElem? hd₀))
  · change (tickFrom 0 b.devices b.lines).2.wf (tickFrom 0 b.devices b.lines).1.length
    rw [tickFrom_length]
    exact tickFrom_lines 0 b.devices b.lines (Bus.wf_lines hb) (by omega)

/-! ### Replayed cycles -/

/-- A replay that begins with a read. -/
theorem Bus.replay_rd (b : Bus) (a v cs b') : b.replay (rd a v :: cs) = some b' ↔
    ∃ b₁, b.read a = some (v, b₁) ∧ b₁.tick.replay cs = some b' := by
  simp only [Bus.replay, rd]
  cases b.read a with
  | none => simp
  | some p =>
    obtain ⟨w, b₁⟩ := p
    by_cases hw : w = v <;> simp [hw]

/-- A replay that begins with a write. -/
theorem Bus.replay_wr (b : Bus) (a v cs b') : b.replay (wr a v :: cs) = some b' ↔
    ∃ b₁, b.write a v = some b₁ ∧ b₁.tick.replay cs = some b' := by
  simp only [Bus.replay, wr]
  cases b.write a v <;> simp

@[simp] theorem Bus.replay_nil (b b' : Bus) : b.replay [] = some b' ↔ b = b' := by simp [Bus.replay]

/-- Every bus cycle is a read or a write. -/
theorem BusCycle.rd_or_wr (c : BusCycle) : c = rd c.address c.value ∨ c = wr c.address c.value := by
  obtain ⟨acc, a, v⟩ := c
  cases acc
  · exact .inl rfl
  · exact .inr rfl

/-- One cycle replayed, whatever it is: the bus its access leaves, ticked. -/
theorem Bus.replay_cons {b b' : Bus} {c : BusCycle} {cs : List BusCycle} (h : b.replay (c :: cs) = some b') :
    ∃ b₁, ((c.access = .read ∧ b.read c.address = some (c.value, b₁)) ∨
      (c.access = .write ∧ b.write c.address c.value = some b₁)) ∧ b₁.tick.replay cs = some b' := by
  obtain ⟨acc, a, v⟩ := c
  cases acc
  · obtain ⟨b₁, hr, hrest⟩ := (Bus.replay_rd b a v cs b').mp h
    exact ⟨b₁, .inl ⟨rfl, hr⟩, hrest⟩
  · obtain ⟨b₁, hw, hrest⟩ := (Bus.replay_wr b a v cs b').mp h
    exact ⟨b₁, .inr ⟨rfl, hw⟩, hrest⟩

/-- A replay of two lists, one after the other. -/
theorem Bus.replay_append (b : Bus) (cs ds) : b.replay (cs ++ ds) = (b.replay cs).bind (fun b' => b'.replay ds) := by
  induction cs generalizing b with
  | nil => rfl
  | cons c cs ih =>
    obtain ⟨acc, a, v⟩ := c
    cases acc
    · simp only [List.cons_append, Bus.replay]
      cases b.read a with
      | none => rfl
      | some p =>
        obtain ⟨w, b₁⟩ := p
        by_cases hw : w = v <;> simp [hw, ih]
    · simp only [List.cons_append, Bus.replay]
      cases b.write a v with
      | none => rfl
      | some b₁ => simp [ih]

/-- One more read at the end of a replay. -/
theorem Bus.replay_snoc_rd {b b' b'' : Bus} {cs : List BusCycle} {a : Word} {v : Byte}
    (h : b.replay cs = some b') (hr : b'.read a = some (v, b'')) :
    b.replay (cs ++ [rd a v]) = some b''.tick := by
  rw [Bus.replay_append, h, Option.bind_some, Bus.replay_rd]
  exact ⟨b'', hr, rfl⟩

/-- One more write at the end of a replay. -/
theorem Bus.replay_snoc_wr {b b' b'' : Bus} {cs : List BusCycle} {a : Word} {v : Byte}
    (h : b.replay cs = some b') (hw : b'.write a v = some b'') :
    b.replay (cs ++ [wr a v]) = some b''.tick := by
  rw [Bus.replay_append, h, Option.bind_some, Bus.replay_wr]
  exact ⟨b'', hw, rfl⟩

theorem Bus.replay_sameMap {b b' : Bus} {cs : List BusCycle} (h : b.replay cs = some b') : b.SameMap b' := by
  induction cs generalizing b with
  | nil => obtain rfl := (Bus.replay_nil b b').mp h; exact .refl b
  | cons c cs ih =>
    obtain ⟨b₁, hc, hrest⟩ := Bus.replay_cons h
    have h₁ : b.SameMap b₁ := by
      obtain ⟨-, hr⟩ | ⟨-, hw⟩ := hc
      · exact Bus.read_sameMap hr
      · exact Bus.write_sameMap hw
    exact (h₁.trans (Bus.tick_sameMap b₁)).trans (ih hrest)

theorem Bus.replay_wf {b b' : Bus} {cs : List BusCycle} (hb : b.wf = true) (h : b.replay cs = some b') :
    b'.wf = true := by
  induction cs generalizing b with
  | nil => obtain rfl := (Bus.replay_nil b b').mp h; exact hb
  | cons c cs ih =>
    obtain ⟨b₁, hc, hrest⟩ := Bus.replay_cons h
    have h₁ : b₁.wf = true := by
      obtain ⟨-, hr⟩ | ⟨-, hw⟩ := hc
      · exact Bus.read_wf hb hr
      · exact Bus.write_wf hb hw
    exact ih (Bus.tick_wf h₁) hrest

/-- A replay changes no byte of memory but those its writes reach. -/
theorem Bus.replay_peek {b b' : Bus} {cs : List BusCycle} (h : b.replay cs = some b') {a : Word}
    (ha : ∀ c ∈ cs, c.access = .write → b.sameCell a c.address = false) : b'.peek a = b.peek a := by
  induction cs generalizing b with
  | nil => obtain rfl := (Bus.replay_nil b b').mp h; rfl
  | cons c cs ih =>
    obtain ⟨b₁, hc, hrest⟩ := Bus.replay_cons h
    have key : b.SameMap b₁ ∧ b₁.peek a = b.peek a := by
      obtain ⟨-, hr⟩ | ⟨hacc, hw⟩ := hc
      · exact ⟨Bus.read_sameMap hr, Bus.read_peek hr a⟩
      · exact ⟨Bus.write_sameMap hw, Bus.write_peek_other hw (ha c (.head _) hacc)⟩
    have hs := key.1.trans (Bus.tick_sameMap b₁)
    rw [ih hrest (fun c' hc' hw => by rw [hs.sameCell]; exact ha c' (.tail _ hc') hw), Bus.tick_peek, key.2]

end Sys2Proof.Machine
end

