-- ==== Sys2Proof/Laws/HostOps.lean ====
section
/-! SUPPORT. What attach looks for, and the attaches of build taken one by one. -/

namespace Sys2Proof.Machine

/-- The range a RangeConflict records is that of an entry the new range overlaps. -/
theorem overlapped_some {map : List MapEntry} {r x : Range} (h : overlapped map r = some x) :
    ∃ e ∈ map, e.range = x ∧ r.overlaps e.range = true := by
  simp only [overlapped, Option.map_eq_some_iff] at h
  obtain ⟨e, he, rfl⟩ := h
  exact ⟨e, List.mem_of_find?_eq_some he, rfl, List.find?_some (p := fun e : MapEntry => r.overlaps e.range) he⟩

/-- A range is recorded exactly if some entry is overlapped. -/
theorem overlapped_isSome (map : List MapEntry) (r : Range) :
    (overlapped map r).isSome = true ↔ ∃ e ∈ map, r.overlaps e.range = true := by
  simp [overlapped]

/-- One more attach at the end of a list: made on what the others leave, and not made if one of them failed. -/
theorem attachAll_snoc (s : State) (entries : List (Range × AttachTarget)) (r : Range) (target : AttachTarget) :
    (∀ m, attachAll s entries = .next m → attachAll s (entries ++ [(r, target)]) = attach m r target) ∧
    ((∀ m, attachAll s entries ≠ .next m) → attachAll s (entries ++ [(r, target)]) = attachAll s entries) := by
  induction entries generalizing s with
  | nil =>
    refine ⟨fun m h => ?_, fun h => absurd rfl (h s)⟩
    simp only [attachAll, Host.Outcome.next.injEq] at h
    subst h
    simp only [List.nil_append, attachAll]
    cases attach s r target <;> rfl
  | cons p rest ih =>
    simp only [List.cons_append, attachAll]
    cases attach s p.1 p.2 with
    | next t => exact ih t
    | fault f => exact ⟨fun _ h => (nomatch h), fun _ => rfl⟩
    | refused f => exact ⟨fun _ h => (nomatch h), fun _ => rfl⟩

end Sys2Proof.Machine
end

