-- ==== Sys2Proof/Laws/Ops.lean ====
section
/-! SUPPORT. What each shared operation does to a run: a run is written as what it was at some earlier point,
and the bus cycles, the bus, the registers and the latches since then (`Run.went`). -/

namespace Sys2Proof.Machine

/-! ### Parts of a sequence, one after the other -/

theorem M.bind_ok {α β : Type} {x : M α} {f : α → M β} {r r' : Run} {v : α} (h : x r = .ok v r') :
    (x >>= f) r = f v r' := by
  simp only [bind, EStateM.bind, h]

theorem M.bind_error {α β : Type} {x : M α} {f : α → M β} {r r' : Run} {k : FaultKind}
    (h : x r = .error k r') : (x >>= f) r = .error k r' := by
  simp only [bind, EStateM.bind, h]

theorem M.pure_ok {α : Type} (v : α) (r : Run) : (pure v : M α) r = .ok v r := rfl

/-! ### Runs -/

/-- The run after these bus cycles, with this bus, these registers and these latches. -/
def Run.went (r : Run) (cs : List BusCycle) (b : Bus) (g : Regs) (l : Latches) : Run :=
  { m := { r.m with
      regs := g
      bus := b
      cycles := r.m.cycles + cs.length
      phase := r.m.phase.afterCycles cs
      trace := r.m.trace ++ cs }
    q := { r.q with done := r.q.done + cs.length, latch := l } }

@[simp] theorem Run.went_regs (r : Run) (cs b g l) : (r.went cs b g l).m.regs = g := rfl
@[simp] theorem Run.went_bus (r : Run) (cs b g l) : (r.went cs b g l).m.bus = b := rfl
@[simp] theorem Run.went_latch (r : Run) (cs b g l) : (r.went cs b g l).q.latch = l := rfl
@[simp] theorem Run.went_params (r : Run) (cs b g l) : (r.went cs b g l).m.params = r.m.params := rfl

theorem Run.went_nil (r : Run) : r.went [] r.m.bus r.m.regs r.q.latch = r := by
  simp [Run.went]

theorem Run.went_went (r : Run) (cs b g l ds b' g' l') :
    (r.went cs b g l).went ds b' g' l' = r.went (cs ++ ds) b' g' l' := by
  simp [Run.went, Phase.afterCycles_append, Nat.add_assoc]

/-- One more cycle, its access only: the devices are not ticked yet. -/
theorem Run.went_accessed (r : Run) (cs b g l b' c) :
    (r.went cs b g l).clock.accessed b' c = r.went (cs ++ [c]) b' g l := by
  simp [Run.went, Run.clock, Run.accessed, Phase.afterCycles_append, Nat.add_assoc]

/-- What a sequence that starts from a state leaves when it ends. -/
theorem State.enter_finish (s : State) (cs b g l) : (s.enter.went cs b g l).finish = s.after cs b g := by
  unfold State.enter State.after Run.went Run.finish
  split <;> simp [State.enter, *]

/-- What a fault in the next cycle of a sequence that starts from a state leaves. -/
theorem State.enter_halt (s : State) (cs b g l k) :
    ((s.enter.went cs b g l).clock.halt k) = s.faulted cs b k := by
  unfold State.enter State.faulted Run.went Run.halt Run.clock
  split <;> simp [State.enter, *]

/-- The run a sequence starts with, in the form of these lemmas. -/
theorem State.enter_went (s : State) : s.enter = s.enter.went [] s.bus s.regs s.enter.q.latch := by
  have h := s.enter.went_nil
  rw [State.enter_bus, State.enter_regs] at h
  exact h.symm

theorem runSeq_ok {m : M Unit} {s : State} {cs b g l}
    (h : m (s.enter.went [] s.bus s.regs s.enter.q.latch) = .ok () (s.enter.went cs b g l)) :
    runSeq m s = .next (s.after cs b g) := by
  unfold runSeq runFrom
  rw [State.enter_went, h]
  simp only [State.enter_finish]

theorem runSeq_error {m : M Unit} {s : State} {cs b g l k}
    (h : m (s.enter.went [] s.bus s.regs s.enter.q.latch) = .error k (s.enter.went cs b g l).clock) :
    runSeq m s = .fault (k.toFault (s.faulted cs b k)) := by
  unfold runSeq runFrom
  rw [State.enter_went, h]
  simp only [State.enter_halt]

/-! ### Clock cycles -/

theorem readAccess_went {b b' : Bus} {a : Word} {v : Byte} (r : Run) (cs g l) (h : b.read a = some (v, b')) :
    readAccess a (r.went cs b g l) = .ok v (r.went (cs ++ [rd a v]) b' g l) := by
  simp only [readAccess, Run.went_bus, h, Run.went_accessed, rd]

theorem readAccess_fault {b : Bus} {a : Word} (r : Run) (cs g l) (h : b.read a = none) :
    readAccess a (r.went cs b g l) = .error (.unmappedAccess a .read) (r.went cs b g l).clock := by
  simp only [readAccess, Run.went_bus, h]

theorem writeAccess_went {b b' : Bus} {a : Word} {v : Byte} (r : Run) (cs g l) (h : b.write a v = some b') :
    writeAccess a v (r.went cs b g l) = .ok () (r.went (cs ++ [wr a v]) b' g l) := by
  simp only [writeAccess, Run.went_bus, h, Run.went_accessed, wr]

theorem writeAccess_fault {b : Bus} {a : Word} {v : Byte} (r : Run) (cs g l) (h : b.write a v = none) :
    writeAccess a v (r.went cs b g l) = .error (.unmappedAccess a .write) (r.went cs b g l).clock := by
  simp only [writeAccess, Run.went_bus, h]

theorem tickDevices_went (r : Run) (cs b g l) :
    tickDevices (r.went cs b g l) = .ok () (r.went cs b.tick g l) := rfl

/-- A read cycle at a mapped address. -/
theorem readCycle_went {b b' : Bus} {a : Word} {v : Byte} (r : Run) (cs g l) (h : b.read a = some (v, b')) :
    readCycle a (r.went cs b g l) = .ok v (r.went (cs ++ [rd a v]) b'.tick g l) := by
  unfold readCycle
  rw [M.bind_ok (readAccess_went r cs g l h), M.bind_ok (tickDevices_went r _ b' g l)]
  rfl

/-- A read cycle at an unmapped address. -/
theorem readCycle_fault {b : Bus} {a : Word} (r : Run) (cs g l) (h : b.read a = none) :
    readCycle a (r.went cs b g l) = .error (.unmappedAccess a .read) (r.went cs b g l).clock :=
  M.bind_error (readAccess_fault r cs g l h)

/-- A write cycle at a mapped address. -/
theorem writeCycle_went {b b' : Bus} {a : Word} {v : Byte} (r : Run) (cs g l) (h : b.write a v = some b') :
    writeCycle a v (r.went cs b g l) = .ok () (r.went (cs ++ [wr a v]) b'.tick g l) := by
  unfold writeCycle
  rw [M.bind_ok (writeAccess_went r cs g l h), tickDevices_went]

/-- A write cycle at an unmapped address. -/
theorem writeCycle_fault {b : Bus} {a : Word} {v : Byte} (r : Run) (cs g l) (h : b.write a v = none) :
    writeCycle a v (r.went cs b g l) = .error (.unmappedAccess a .write) (r.went cs b g l).clock :=
  M.bind_error (writeAccess_fault r cs g l h)

theorem dummyRead_went {b b' : Bus} {a : Word} {v : Byte} (r : Run) (cs g l) (h : b.read a = some (v, b')) :
    dummyRead a (r.went cs b g l) = .ok () (r.went (cs ++ [rd a v]) b'.tick g l) := by
  unfold dummyRead
  rw [M.bind_ok (readCycle_went r cs g l h)]
  rfl

/-! ### Registers and latches -/

theorem getRegs_went (r : Run) (cs b g l) : getRegs (r.went cs b g l) = .ok g (r.went cs b g l) := rfl

theorem setRegs_went (f : Regs → Regs) (r : Run) (cs b g l) :
    setRegs f (r.went cs b g l) = .ok () (r.went cs b (f g) l) := rfl

theorem getLatches_went (r : Run) (cs b g l) : getLatches (r.went cs b g l) = .ok l (r.went cs b g l) := rfl

theorem setLatches_went (f : Latches → Latches) (r : Run) (cs b g l) :
    setLatches f (r.went cs b g l) = .ok () (r.went cs b g (f l)) := rfl

theorem latchAdl_went (v : Byte) (r : Run) (cs b g l) :
    latchAdl v (r.went cs b g l) = .ok () (r.went cs b g { l with adl := v }) := rfl

theorem latchAdh_went (v : Byte) (r : Run) (cs b g l) :
    latchAdh v (r.went cs b g l) = .ok () (r.went cs b g { l with adh := v }) := rfl

theorem latchBal_went (v : Byte) (r : Run) (cs b g l) :
    latchBal v (r.went cs b g l) = .ok () (r.went cs b g { l with bal := v }) := rfl

theorem latchDl_went (v : Byte) (r : Run) (cs b g l) :
    latchDl v (r.went cs b g l) = .ok () (r.went cs b g { l with dl := v }) := rfl

theorem latchCross_went (c : Bool) (r : Run) (cs b g l) :
    latchCross c (r.went cs b g l) = .ok () (r.went cs b g { l with cross := c }) := rfl

theorem latchIr_went (i : Ir) (r : Run) (cs b g l) :
    latchIr i (r.went cs b g l) = .ok () (r.went cs b g { l with ir := i }) := rfl

theorem setPc_went (a : Word) (r : Run) (cs b g l) :
    setPc a (r.went cs b g l) = .ok () (r.went cs b { g with pc := a } l) := rfl

theorem incPc_went (r : Run) (cs b g l) :
    incPc (r.went cs b g l) = .ok () (r.went cs b { g with pc := g.pc + 1 } l) := rfl

/-! ### What a part of a sequence does, cycle by cycle -/

/-- With the registers `g` and the latches `l`, and as far as the cycles `cs` can be replayed, `m` makes exactly
those: all of them, and it answers `v` and leaves `g'` and `l'`; or those before the first at an unmapped
address, which is its fault. -/
def Tracks {α : Type} (m : M α) (g : Regs) (l : Latches) (cs : List BusCycle) (v : α) (g' : Regs) (l' : Latches) :
    Prop :=
  ∀ (r : Run) (ds : List BusCycle) (b : Bus),
    (∀ b', b.replay cs = some b' → m (r.went ds b g l) = .ok v (r.went (ds ++ cs) b' g' l')) ∧
    (∀ n c b', cs[n]? = some c → b.replay (cs.take n) = some b' → b'.mapped c.address = false →
      ∃ g₁ l₁, m (r.went ds b g l) =
        .error (.unmappedAccess c.address c.access) (r.went (ds ++ cs.take n) b' g₁ l₁).clock)

/-- A part that makes no cycle. -/
theorem Tracks.silent {α : Type} {m : M α} {g g' : Regs} {l l' : Latches} {v : α}
    (h : ∀ (r : Run) ds b, m (r.went ds b g l) = .ok v (r.went ds b g' l')) : Tracks m g l [] v g' l' := by
  intro r ds b
  refine ⟨fun b' hb => ?_, fun n c b' hc => by simp at hc⟩
  obtain rfl := (Bus.replay_nil _ _).mp hb
  simpa using h r ds b

/-- One part after another. -/
theorem Tracks.bind {α β : Type} {m : M α} {f : α → M β} {g g₁ g₂ : Regs} {l l₁ l₂ : Latches}
    {cs ds : List BusCycle} {v : α} {u : β} (h : Tracks m g l cs v g₁ l₁) (k : Tracks (f v) g₁ l₁ ds u g₂ l₂) :
    Tracks (m >>= f) g l (cs ++ ds) u g₂ l₂ := by
  intro r es b
  constructor
  · intro b' hb
    rw [Bus.replay_append, Option.bind_eq_some_iff] at hb
    obtain ⟨b₁, h₁, h₂⟩ := hb
    rw [M.bind_ok ((h r es b).1 b₁ h₁), (k r (es ++ cs) b₁).1 b' h₂, List.append_assoc]
  · intro n c b' hc hb hm
    by_cases hn : n < cs.length
    · rw [List.getElem?_append_left hn] at hc
      rw [List.take_append_of_le_length (Nat.le_of_lt hn)] at hb ⊢
      obtain ⟨g₃, l₃, he⟩ := (h r es b).2 n c b' hc hb hm
      exact ⟨g₃, l₃, M.bind_error he⟩
    · have hn := Nat.not_lt.mp hn
      rw [List.getElem?_append_right hn] at hc
      rw [List.take_append, List.take_of_length_le hn] at hb ⊢
      rw [Bus.replay_append, Option.bind_eq_some_iff] at hb
      obtain ⟨b₁, h₁, h₂⟩ := hb
      obtain ⟨g₃, l₃, he⟩ := (k r (es ++ cs) b₁).2 _ c b' hc h₂ hm
      exact ⟨g₃, l₃, by rw [M.bind_ok ((h r es b).1 b₁ h₁), he, List.append_assoc]⟩

theorem Tracks.pure {α : Type} (v : α) (g : Regs) (l : Latches) : Tracks (pure v : M α) g l [] v g l :=
  .silent fun _ _ _ => rfl

theorem getRegs_tracks (g : Regs) (l : Latches) : Tracks getRegs g l [] g g l := .silent fun _ _ _ => rfl

theorem setRegs_tracks (f : Regs → Regs) (g : Regs) (l : Latches) : Tracks (setRegs f) g l [] () (f g) l :=
  .silent fun _ _ _ => rfl

theorem getLatches_tracks (g : Regs) (l : Latches) : Tracks getLatches g l [] l g l := .silent fun _ _ _ => rfl

theorem setLatches_tracks (f : Latches → Latches) (g : Regs) (l : Latches) :
    Tracks (setLatches f) g l [] () g (f l) := .silent fun _ _ _ => rfl

theorem readCycle_tracks (a : Word) (v : Byte) (g : Regs) (l : Latches) : Tracks (readCycle a) g l [rd a v] v g l := by
  intro r ds b
  constructor
  · intro b' hb
    obtain ⟨b₁, h₁, hb⟩ := (Bus.replay_rd _ _ _ _ _).mp hb
    obtain rfl := (Bus.replay_nil _ _).mp hb
    exact readCycle_went r ds g l h₁
  · intro n c b' hc hb hm
    cases n with
    | succ n => simp at hc
    | zero =>
      simp only [List.getElem?_cons_zero, Option.some.injEq] at hc
      subst hc
      obtain rfl := (Bus.replay_nil _ _).mp hb
      refine ⟨g, l, ?_⟩
      rw [List.take_zero, List.append_nil]
      exact readCycle_fault r ds g l ((Bus.read_none_iff _ _).mpr hm)

theorem writeCycle_tracks (a : Word) (v : Byte) (g : Regs) (l : Latches) :
    Tracks (writeCycle a v) g l [wr a v] () g l := by
  intro r ds b
  constructor
  · intro b' hb
    obtain ⟨b₁, h₁, hb⟩ := (Bus.replay_wr _ _ _ _ _).mp hb
    obtain rfl := (Bus.replay_nil _ _).mp hb
    exact writeCycle_went r ds g l h₁
  · intro n c b' hc hb hm
    cases n with
    | succ n => simp at hc
    | zero =>
      simp only [List.getElem?_cons_zero, Option.some.injEq] at hc
      subst hc
      obtain rfl := (Bus.replay_nil _ _).mp hb
      refine ⟨g, l, ?_⟩
      rw [List.take_zero, List.append_nil]
      exact writeCycle_fault r ds g l ((Bus.write_none_iff _ _ v).mpr hm)

theorem dummyRead_tracks (a : Word) (v : Byte) (g : Regs) (l : Latches) : Tracks (dummyRead a) g l [rd a v] () g l :=
  (readCycle_tracks a v g l).bind (.pure () g l)

theorem push_tracks (v : Byte) (g : Regs) (l : Latches) :
    Tracks (push v) g l [wr (stackAddress g.s) v] () { g with s := g.s - 1 } l :=
  (getRegs_tracks g l).bind ((writeCycle_tracks _ v g l).bind (setRegs_tracks _ g l))

theorem beginPull_tracks (v : Byte) (g : Regs) (l : Latches) :
    Tracks beginPull g l [rd (stackAddress g.s) v] () { g with s := g.s + 1 } l :=
  (getRegs_tracks g l).bind ((dummyRead_tracks _ v g l).bind (setRegs_tracks _ g l))

theorem readStack_tracks (v : Byte) (g : Regs) (l : Latches) :
    Tracks readStack g l [rd (stackAddress g.s) v] v g l :=
  (getRegs_tracks g l).bind (readCycle_tracks _ v g l)

theorem readStackInc_tracks (v : Byte) (g : Regs) (l : Latches) :
    Tracks readStackInc g l [rd (stackAddress g.s) v] v { g with s := g.s + 1 } l :=
  (readStack_tracks v g l).bind ((setRegs_tracks _ g l).bind (.pure v _ l))

/-- What a sequence made of such a part answers. -/
theorem runSeq_tracks {m : M Unit} {s : State} {cs : List BusCycle} {g : Regs} {l : Latches}
    (h : Tracks m s.regs s.enter.q.latch cs () g l) :
    (∀ b, s.bus.replay cs = some b → runSeq m s = .next (s.after cs b g)) ∧ FaultsAlong (runSeq m) s cs := by
  constructor
  · intro b hb
    exact runSeq_ok ((h s.enter [] s.bus).1 b hb)
  · intro n c b hc hb hm
    obtain ⟨g₁, l₁, he⟩ := (h s.enter [] s.bus).2 n c b hc hb hm
    exact runSeq_error (k := .unmappedAccess c.address c.access) he

/-! ### Everything a part of a sequence can do

`Does w lo hi R m`: from any run, `m` makes from `lo` to `hi` bus cycles, none of them a write unless `w`, and
leaves registers related by `R` to those it found; or the cycle after fewer than `hi` such cycles is at an
unmapped address, and that is its fault. -/

/-- No cycle of a list is a write, unless writes are allowed. -/
def WritesOnlyIf (w : Bool) (cs : List BusCycle) : Prop := ∀ c ∈ cs, c.access = .write → w = true

/-- How a part of a sequence that completes relates to the run it started from. -/
structure Completes {α : Type} (w : Bool) (lo hi : Nat) (R : Regs → Regs → Prop) (m : M α) (r : Run)
    (v : α) (cs : List BusCycle) (b : Bus) (g : Regs) (l : Latches) : Prop where
  replay : r.m.bus.replay cs = some b
  least  : lo ≤ cs.length
  most   : cs.length ≤ hi
  writes : WritesOnlyIf w cs
  regs   : R r.m.regs g
  run    : m r = .ok v (r.went cs b g l)

/-- How a part of a sequence that faults relates to the run it started from. -/
structure Faults {α : Type} (w : Bool) (hi : Nat) (m : M α) (r : Run)
    (a : Word) (acc : Access) (cs : List BusCycle) (b : Bus) (g : Regs) (l : Latches) : Prop where
  replay   : r.m.bus.replay cs = some b
  unmapped : b.mapped a = false
  fewer    : cs.length < hi
  writes   : WritesOnlyIf w cs
  access   : acc = .write → w = true
  run      : m r = .error (.unmappedAccess a acc) (r.went cs b g l).clock

/-- Everything a part of a sequence can do. -/
def Does {α : Type} (w : Bool) (lo hi : Nat) (R : Regs → Regs → Prop) (m : M α) : Prop :=
  ∀ r, (∃ v cs b g l, Completes w lo hi R m r v cs b g l) ∨ (∃ a acc cs b g l, Faults w hi m r a acc cs b g l)

theorem WritesOnlyIf.append {w : Bool} {cs ds : List BusCycle} (h : WritesOnlyIf w cs) (k : WritesOnlyIf w ds) :
    WritesOnlyIf w (cs ++ ds) := by
  intro c hc
  rcases List.mem_append.mp hc with hc | hc
  · exact h c hc
  · exact k c hc

/-- A part that makes no cycle. -/
theorem Does.silent {α : Type} {w : Bool} {R : Regs → Regs → Prop} {m : M α}
    (h : ∀ r, ∃ v g l, R r.m.regs g ∧ m r = .ok v (r.went [] r.m.bus g l)) : Does w 0 0 R m := by
  intro r
  obtain ⟨v, g, l, hR, hm⟩ := h r
  exact .inl ⟨v, [], r.m.bus, g, l,
    ⟨by simp, by simp, by simp, (by simp [WritesOnlyIf]), hR, hm⟩⟩

/-- Weaker bounds and a weaker relation. -/
theorem Does.weaken {α : Type} {w w' : Bool} {lo lo' hi hi' : Nat} {R R' : Regs → Regs → Prop} {m : M α}
    (h : Does w lo hi R m) (hw : w = true → w' = true) (hlo : lo' ≤ lo) (hhi : hi ≤ hi')
    (hR : ∀ g g', R g g' → R' g g') : Does w' lo' hi' R' m := by
  intro r
  rcases h r with ⟨v, cs, b, g, l, k⟩ | ⟨a, acc, cs, b, g, l, k⟩
  · exact .inl ⟨v, cs, b, g, l, k.replay, Nat.le_trans hlo k.least, Nat.le_trans k.most hhi,
      fun c hc ha => hw (k.writes c hc ha), hR _ _ k.regs, k.run⟩
  · exact .inr ⟨a, acc, cs, b, g, l, k.replay, k.unmapped, Nat.lt_of_lt_of_le k.fewer hhi,
      fun c hc ha => hw (k.writes c hc ha), fun ha => hw (k.access ha), k.run⟩

/-- What makes no write may be said to make some. -/
theorem Does.may {α : Type} {lo hi : Nat} {R : Regs → Regs → Prop} {m : M α} (h : Does false lo hi R m) :
    Does true lo hi R m :=
  h.weaken (fun _ => rfl) (Nat.le_refl _) (Nat.le_refl _) (fun _ _ k => k)

/-- One part after another. -/
theorem Does.bind {α β : Type} {w : Bool} {lo hi lo' hi' : Nat} {R : Regs → Regs → Prop}
    {R' : α → Regs → Regs → Prop} {m : M α} {f : α → M β} (h : Does w lo hi R m)
    (k : ∀ v, Does w lo' hi' (R' v) (f v)) :
    Does w (lo + lo') (hi + hi') (fun g g' => ∃ g₁ v, R g g₁ ∧ R' v g₁ g') (m >>= f) := by
  intro r
  rcases h r with ⟨v, cs, b, g, l, hm⟩ | ⟨a, acc, cs, b, g, l, hm⟩
  · rcases k v (r.went cs b g l) with ⟨u, ds, b', g', l', hf⟩ | ⟨a, acc, ds, b', g', l', hf⟩
    · refine .inl ⟨u, cs ++ ds, b', g', l', ?_, ?_, ?_, hm.writes.append hf.writes, ⟨g, v, hm.regs, hf.regs⟩, ?_⟩
      · rw [Bus.replay_append, hm.replay]; exact hf.replay
      · have := hm.least; have := hf.least; simp only [List.length_append]; omega
      · have := hm.most; have := hf.most; simp only [List.length_append]; omega
      · rw [M.bind_ok hm.run, hf.run, Run.went_went]
    · refine .inr ⟨a, acc, cs ++ ds, b', g', l', ?_, hf.unmapped, ?_, hm.writes.append hf.writes, hf.access, ?_⟩
      · rw [Bus.replay_append, hm.replay]; exact hf.replay
      · have := hm.most; have := hf.fewer; simp only [List.length_append]; omega
      · rw [M.bind_ok hm.run, hf.run, Run.went_went]
  · exact .inr ⟨a, acc, cs, b, g, l, hm.replay, hm.unmapped, by have := hm.fewer; omega, hm.writes, hm.access,
      M.bind_error hm.run⟩

/-- Nothing but a value. -/
theorem Does.pure {α : Type} (v : α) : Does false 0 0 (fun g g' => g' = g) (pure v : M α) :=
  Does.silent fun r => ⟨v, r.m.regs, r.q.latch, rfl, by rw [Run.went_nil]; rfl⟩

theorem getRegs_does : Does false 0 0 (fun g g' => g' = g) getRegs :=
  Does.silent fun r => ⟨r.m.regs, r.m.regs, r.q.latch, rfl, by rw [Run.went_nil]; rfl⟩

theorem getLatches_does : Does false 0 0 (fun g g' => g' = g) getLatches :=
  Does.silent fun r => ⟨r.q.latch, r.m.regs, r.q.latch, rfl, by rw [Run.went_nil]; rfl⟩

theorem setRegs_does (f : Regs → Regs) : Does false 0 0 (fun g g' => g' = f g) (setRegs f) :=
  Does.silent fun r => ⟨(), f r.m.regs, r.q.latch, rfl, by
    conv_lhs => rw [← Run.went_nil r]
    exact setRegs_went f r [] r.m.bus r.m.regs r.q.latch⟩

theorem setLatches_does (f : Latches → Latches) : Does false 0 0 (fun g g' => g' = g) (setLatches f) :=
  Does.silent fun r => ⟨(), r.m.regs, f r.q.latch, rfl, by
    conv_lhs => rw [← Run.went_nil r]
    exact setLatches_went f r [] r.m.bus r.m.regs r.q.latch⟩

/-- A read cycle: one read, or the fault of an unmapped address in its place. -/
theorem readCycle_does (a : Word) : Does false 1 1 (fun g g' => g' = g) (readCycle a) := by
  intro r
  cases h : r.m.bus.read a with
  | none =>
    refine .inr ⟨a, .read, [], r.m.bus, r.m.regs, r.q.latch, by simp, (Bus.read_none_iff _ _).mp h, by simp,
      by simp [WritesOnlyIf], by simp, ?_⟩
    conv_lhs => rw [← Run.went_nil r]
    exact readCycle_fault r [] r.m.regs r.q.latch h
  | some p =>
    obtain ⟨v, b⟩ := p
    refine .inl ⟨v, [rd a v], b.tick, r.m.regs, r.q.latch, ?_, by simp, by simp, by simp [WritesOnlyIf, rd], rfl, ?_⟩
    · rw [Bus.replay_rd]; exact ⟨b, h, by simp⟩
    · conv_lhs => rw [← Run.went_nil r]
      exact readCycle_went r [] r.m.regs r.q.latch h

/-- A write cycle: one write, or the fault of an unmapped address in its place. -/
theorem writeCycle_does (a : Word) (v : Byte) : Does true 1 1 (fun g g' => g' = g) (writeCycle a v) := by
  intro r
  cases h : r.m.bus.write a v with
  | none =>
    refine .inr ⟨a, .write, [], r.m.bus, r.m.regs, r.q.latch, by simp, (Bus.write_none_iff _ _ _).mp h, by simp,
      by simp [WritesOnlyIf], by simp, ?_⟩
    conv_lhs => rw [← Run.went_nil r]
    exact writeCycle_fault r [] r.m.regs r.q.latch h
  | some b =>
    refine .inl ⟨(), [wr a v], b.tick, r.m.regs, r.q.latch, ?_, by simp, by simp, by simp [WritesOnlyIf], rfl, ?_⟩
    · rw [Bus.replay_wr]; exact ⟨b, h, by simp⟩
    · conv_lhs => rw [← Run.went_nil r]
      exact writeCycle_went r [] r.m.regs r.q.latch h

theorem dummyRead_does (a : Word) : Does false 1 1 (fun g g' => g' = g) (dummyRead a) :=
  ((readCycle_does a).bind fun _ => Does.pure ()).weaken id (by omega) (by omega)
    (by rintro g g' ⟨g₁, _, rfl, rfl⟩; rfl)

/-- A push: one write, S less 1 and nothing else. -/
theorem push_does (v : Byte) : Does true 1 1 (fun g g' => g' = { g with s := g.s - 1 }) (push v) := by
  have h := getRegs_does.may.bind fun g => (writeCycle_does (stackAddress g.s) v).bind fun _ =>
    (setRegs_does fun g => { g with s := g.s - 1 }).may
  refine h.weaken id (by omega) (by omega) ?_
  rintro g g' ⟨g₁, _, rfl, g₂, _, rfl, rfl⟩
  rfl

/-- What a sequence made of such a part answers. -/
theorem Does.runSeq {w : Bool} {lo hi : Nat} {R : Regs → Regs → Prop} {m : M Unit} (h : Does w lo hi R m)
    (s : State) :
    (∃ cs b g, s.bus.replay cs = some b ∧ lo ≤ cs.length ∧ cs.length ≤ hi ∧ WritesOnlyIf w cs ∧ R s.regs g ∧
      runSeq m s = .next (s.after cs b g)) ∨
    (∃ a acc cs b, s.bus.replay cs = some b ∧ b.mapped a = false ∧ cs.length < hi ∧ WritesOnlyIf w cs ∧
      runSeq m s = .fault (.unmappedAccess a acc (s.faulted cs b (.unmappedAccess a acc)))) := by
  rcases h s.enter with ⟨v, cs, b, g, l, k⟩ | ⟨a, acc, cs, b, g, l, k⟩
  · exact .inl ⟨cs, b, g, by simpa using k.replay, k.least, k.most, k.writes, by simpa using k.regs, runSeq_ok (by rw [← State.enter_went]; exact k.run)⟩
  · exact .inr ⟨a, acc, cs, b, by simpa using k.replay, k.unmapped, k.fewer, k.writes, runSeq_error (m := m) (s := s) (k := .unmappedAccess a acc) (by rw [← State.enter_went]; exact k.run)⟩

end Sys2Proof.Machine
end

