-- ==== Sys2Proof/Laws/Operands.lean ====
section
/-! SUPPORT. What each addressing mode and each access class does: its cycles, its effective address and its
registers (`Tracks`), and everything it can do (`Does`). -/

namespace Sys2Proof.Machine

/-! ### What the modes and classes do, cycle by cycle -/

theorem eaZp_tracks (b1 : Byte) (g : Regs) (l : Latches) :
    Tracks (eaZp b1) g l [] (zeroPage b1) g { l with adl := b1 } := .silent fun _ _ _ => rfl

theorem eaZpIndexed_tracks (idx : Regs → Byte) (b1 v : Byte) (g : Regs) (l : Latches) :
    Tracks (eaZpIndexed idx b1) g l [rd (zeroPage b1) v] (zeroPage (b1 + idx g)) g { l with bal := b1 } :=
  (setLatches_tracks (fun l => { l with bal := b1 }) g l).bind ((getLatches_tracks g _).bind
    ((dummyRead_tracks _ v g _).bind ((getRegs_tracks g _).bind (.pure _ g _))))

theorem eaAbs_tracks (b1 b2 : Byte) (g : Regs) (l : Latches) :
    Tracks (eaAbs b1 b2) g l [] (word b2 b1) g { l with adl := b1, adh := b2 } := .silent fun _ _ _ => rfl

/-- The fix-up read of an index addition, if it is spent. -/
def fixupReads (fix : Fixup) (hi lo idx v : Byte) : List BusCycle :=
  if fix = .always ∨ crosses lo idx = true then [rd (word hi (lo + idx)) v] else []

theorem indexed_tracks (fix : Fixup) (idx v : Byte) (g : Regs) (l : Latches) :
    Tracks (indexed fix idx) g l (fixupReads fix l.adh l.adl idx v) (word l.adh l.adl + zext idx) g
      { l with cross := crosses l.adl idx } := by
  have h : ∀ k : Latches, Tracks
      (if fix = .always ∨ k.cross = true then do
          dummyRead (word k.adh (k.adl + idx))
          pure (word k.adh k.adl + zext idx)
        else pure (word k.adh k.adl + zext idx) : M Word) g k
      (if fix = .always ∨ k.cross = true then [rd (word k.adh (k.adl + idx)) v] else [])
      (word k.adh k.adl + zext idx) g k := by
    intro k
    split
    · exact (dummyRead_tracks _ v g k).bind (.pure _ g k)
    · exact .pure _ g k
  exact (getLatches_tracks g l).bind ((setLatches_tracks (fun k => { k with cross := crosses l.adl idx }) g l).bind
    ((getLatches_tracks g _).bind (h _)))

theorem eaAbsIndexed_tracks (fix : Fixup) (idx : Regs → Byte) (b1 b2 v : Byte) (g : Regs) (l : Latches) :
    Tracks (eaAbsIndexed fix idx b1 b2) g l (fixupReads fix b2 b1 (idx g) v) (word b2 b1 + zext (idx g)) g
      { l with adl := b1, adh := b2, cross := crosses b1 (idx g) } :=
  (setLatches_tracks (fun l => { l with adl := b1 }) g l).bind
    ((setLatches_tracks (fun l => { l with adh := b2 }) g _).bind
      ((getRegs_tracks g _).bind (indexed_tracks fix (idx g) v g _)))

theorem readPointer_tracks (p lo hi : Byte) (g : Regs) (l : Latches) :
    Tracks (readPointer p) g l [rd (zeroPage p) lo, rd (zeroPage (p + 1)) hi] () g { l with adl := lo, adh := hi } :=
  (readCycle_tracks _ lo g l).bind ((setLatches_tracks (fun l => { l with adl := lo }) g l).bind
    ((readCycle_tracks _ hi g _).bind (setLatches_tracks (fun l => { l with adh := hi }) g _)))

theorem eaIzx_tracks (b1 u lo hi : Byte) (g : Regs) (l : Latches) :
    Tracks (eaIzx b1) g l
      [rd (zeroPage b1) u, rd (zeroPage (b1 + g.x)) lo, rd (zeroPage (b1 + g.x + 1)) hi] (word hi lo) g
      { l with bal := b1, adl := lo, adh := hi } :=
  (setLatches_tracks (fun l => { l with bal := b1 }) g l).bind ((getLatches_tracks g _).bind
    ((dummyRead_tracks _ u g _).bind ((getRegs_tracks g _).bind ((readPointer_tracks _ lo hi g _).bind
      ((getLatches_tracks g _).bind (.pure _ g _))))))

theorem eaIzy_tracks (fix : Fixup) (b1 lo hi v : Byte) (g : Regs) (l : Latches) :
    Tracks (eaIzy fix b1) g l
      ([rd (zeroPage b1) lo, rd (zeroPage (b1 + 1)) hi] ++ fixupReads fix hi lo g.y v) (word hi lo + zext g.y) g
      { l with bal := b1, adl := lo, adh := hi, cross := crosses lo g.y } :=
  (setLatches_tracks (fun l => { l with bal := b1 }) g l).bind ((getLatches_tracks g _).bind
    ((readPointer_tracks _ lo hi g _).bind ((getRegs_tracks g _).bind (indexed_tracks fix g.y v g _))))

theorem readImm_tracks (b1 : Byte) (op : Byte → Regs → Regs) (g : Regs) (l : Latches) :
    Tracks (readImm b1 op) g l [] () (op b1 g) { l with dl := b1 } := .silent fun _ _ _ => rfl

theorem readOperand_tracks {ea : M Word} {g : Regs} {l l' : Latches} {cs : List BusCycle} {a : Word}
    (op : Byte → Regs → Regs) (v : Byte) (h : Tracks ea g l cs a g l') :
    Tracks (readOperand ea op) g l (cs ++ [rd a v]) () (op v g) { l' with dl := v } :=
  h.bind ((readCycle_tracks a v g l').bind ((setLatches_tracks (fun l => { l with dl := v }) g l').bind
    ((getLatches_tracks g _).bind (setRegs_tracks (op v) g _))))

theorem writeOperand_tracks {ea : M Word} {g : Regs} {l l' : Latches} {cs : List BusCycle} {a : Word}
    (reg : Regs → Byte) (h : Tracks ea g l cs a g l') :
    Tracks (writeOperand ea reg) g l (cs ++ [wr a (reg g)]) () g l' :=
  h.bind ((getRegs_tracks g l').bind (writeCycle_tracks a (reg g) g l'))

theorem modifyOperand_tracks {ea : M Word} {g : Regs} {l l' : Latches} {cs : List BusCycle} {a : Word}
    (op : Byte → Regs → Byte × Regs) (v : Byte) (h : Tracks ea g l cs a g l') :
    Tracks (modifyOperand ea op) g l (cs ++ [rd a v, wr a v, wr a (op v g).1]) () (op v g).2 { l' with dl := v } :=
  h.bind ((readCycle_tracks a v g l').bind ((setLatches_tracks (fun l => { l with dl := v }) g l').bind
    ((getLatches_tracks g _).bind ((writeCycle_tracks a v g _).bind ((getRegs_tracks g _).bind
      ((writeCycle_tracks a (op v g).1 g _).bind (setRegs_tracks (fun g => (op v g).2) g _)))))))

theorem implied_tracks (op : Regs → Regs) (v : Byte) (g : Regs) (l : Latches) :
    Tracks (implied op) g l [rd g.pc v] () (op g) l :=
  (getRegs_tracks g l).bind ((dummyRead_tracks _ v g l).bind (setRegs_tracks op g l))

theorem accumulator_tracks (op : Byte → Regs → Byte × Regs) (v : Byte) (g : Regs) (l : Latches) :
    Tracks (accumulator op) g l [rd g.pc v] () { (op g.a g).2 with a := (op g.a g).1 } l :=
  implied_tracks _ v g l

theorem eaZpx_tracks (b1 v : Byte) (g : Regs) (l : Latches) :
    Tracks (eaZpx b1) g l [rd (zeroPage b1) v] (zeroPage (b1 + g.x)) g { l with bal := b1 } :=
  eaZpIndexed_tracks Regs.x b1 v g l

theorem eaZpy_tracks (b1 v : Byte) (g : Regs) (l : Latches) :
    Tracks (eaZpy b1) g l [rd (zeroPage b1) v] (zeroPage (b1 + g.y)) g { l with bal := b1 } :=
  eaZpIndexed_tracks Regs.y b1 v g l

theorem eaAbsx_tracks (fix : Fixup) (b1 b2 v : Byte) (g : Regs) (l : Latches) :
    Tracks (eaAbsx fix b1 b2) g l (fixupReads fix b2 b1 g.x v) (word b2 b1 + zext g.x) g
      { l with adl := b1, adh := b2, cross := crosses b1 g.x } :=
  eaAbsIndexed_tracks fix Regs.x b1 b2 v g l

theorem eaAbsy_tracks (fix : Fixup) (b1 b2 v : Byte) (g : Regs) (l : Latches) :
    Tracks (eaAbsy fix b1 b2) g l (fixupReads fix b2 b1 g.y v) (word b2 b1 + zext g.y) g
      { l with adl := b1, adh := b2, cross := crosses b1 g.y } :=
  eaAbsIndexed_tracks fix Regs.y b1 b2 v g l

theorem fixupReads_always (hi lo idx v : Byte) :
    fixupReads .always hi lo idx v = [rd (word hi (lo + idx)) v] := rfl

theorem fixupReads_crossing {lo idx : Byte} (fix : Fixup) (hi v : Byte) (h : crosses lo idx = true) :
    fixupReads fix hi lo idx v = [rd (word hi (lo + idx)) v] := by simp [fixupReads, h]

theorem fixupReads_direct {lo idx : Byte} (hi v : Byte) (h : crosses lo idx = false) :
    fixupReads .onCross hi lo idx v = [] := by simp [fixupReads, h]

/-! ### Everything the modes and classes can do -/

theorem eaZp_does (b1 : Byte) : Does false 0 0 (fun g g' => g' = g) (eaZp b1) := by
  have h := (setLatches_does fun l => { l with adl := b1 }).bind fun _ => getLatches_does.bind fun l =>
    Does.pure (zeroPage l.adl)
  exact h.weaken id (by omega) (by omega) (by rintro g g' ⟨_, _, rfl, _, _, rfl, rfl⟩; rfl)

theorem eaZpIndexed_does (idx : Regs → Byte) (b1 : Byte) :
    Does false 1 1 (fun g g' => g' = g) (eaZpIndexed idx b1) := by
  have h := (setLatches_does fun l => { l with bal := b1 }).bind fun _ => getLatches_does.bind fun l =>
    (dummyRead_does (zeroPage l.bal)).bind fun _ => getRegs_does.bind fun g => Does.pure (zeroPage (l.bal + idx g))
  exact h.weaken id (by omega) (by omega) (by rintro g g' ⟨_, _, rfl, _, _, rfl, _, _, rfl, _, _, rfl, rfl⟩; rfl)

theorem eaZpx_does (b1 : Byte) : Does false 1 1 (fun g g' => g' = g) (eaZpx b1) := eaZpIndexed_does _ b1

theorem eaZpy_does (b1 : Byte) : Does false 1 1 (fun g g' => g' = g) (eaZpy b1) := eaZpIndexed_does _ b1

theorem eaAbs_does (b1 b2 : Byte) : Does false 0 0 (fun g g' => g' = g) (eaAbs b1 b2) := by
  have h := (setLatches_does fun l => { l with adl := b1 }).bind fun _ =>
    (setLatches_does fun l => { l with adh := b2 }).bind fun _ => getLatches_does.bind fun l =>
      Does.pure (word l.adh l.adl)
  exact h.weaken id (by omega) (by omega) (by rintro g g' ⟨_, _, rfl, _, _, rfl, _, _, rfl, rfl⟩; rfl)

/-- The least number of cycles an index addition spends. -/
def Fixup.least (fix : Fixup) : Nat :=
  match fix with
  | .onCross => 0
  | .always => 1

theorem indexed_does (fix : Fixup) (idx : Byte) :
    Does false fix.least 1 (fun g g' => g' = g) (indexed fix idx) := by
  have key : ∀ k : Latches, Does false fix.least 1 (fun g g' => g' = g)
      (if fix = .always ∨ k.cross = true then do
          dummyRead (word k.adh (k.adl + idx))
          pure (word k.adh k.adl + zext idx)
        else pure (word k.adh k.adl + zext idx) : M Word) := by
    intro k
    split
    · exact ((dummyRead_does _).bind fun _ => Does.pure _).weaken id (by cases fix <;> decide) (by omega)
        (by rintro g g' ⟨_, _, rfl, rfl⟩; rfl)
    · rename_i hn
      refine (Does.pure _).weaken id ?_ (by omega) (fun _ _ h => h)
      cases fix
      · exact Nat.le_refl 0
      · exact absurd (.inl rfl) hn
  have h := getLatches_does.bind fun l => (setLatches_does fun k => { k with cross := crosses l.adl idx }).bind
    fun _ => getLatches_does.bind key
  exact h.weaken id (by omega) (by omega) (by rintro g g' ⟨_, _, rfl, _, _, rfl, _, _, rfl, rfl⟩; rfl)

theorem eaAbsIndexed_does (fix : Fixup) (idx : Regs → Byte) (b1 b2 : Byte) :
    Does false fix.least 1 (fun g g' => g' = g) (eaAbsIndexed fix idx b1 b2) := by
  have h := (setLatches_does fun l => { l with adl := b1 }).bind fun _ =>
    (setLatches_does fun l => { l with adh := b2 }).bind fun _ => getRegs_does.bind fun g => indexed_does fix (idx g)
  exact h.weaken id (by omega) (by omega) (by rintro g g' ⟨_, _, rfl, _, _, rfl, _, _, rfl, rfl⟩; rfl)

theorem eaAbsx_does (fix : Fixup) (b1 b2 : Byte) :
    Does false fix.least 1 (fun g g' => g' = g) (eaAbsx fix b1 b2) := eaAbsIndexed_does _ _ _ _

theorem eaAbsy_does (fix : Fixup) (b1 b2 : Byte) :
    Does false fix.least 1 (fun g g' => g' = g) (eaAbsy fix b1 b2) := eaAbsIndexed_does _ _ _ _

theorem readPointer_does (p : Byte) : Does false 2 2 (fun g g' => g' = g) (readPointer p) := by
  have h := (readCycle_does (zeroPage p)).bind fun v => (setLatches_does fun l => { l with adl := v }).bind fun _ =>
    (readCycle_does (zeroPage (p + 1))).bind fun u => setLatches_does fun l => { l with adh := u }
  exact h.weaken id (by omega) (by omega) (by rintro g g' ⟨_, _, rfl, _, _, rfl, _, _, rfl, rfl⟩; rfl)

theorem eaIzx_does (b1 : Byte) : Does false 3 3 (fun g g' => g' = g) (eaIzx b1) := by
  have h := (setLatches_does fun l => { l with bal := b1 }).bind fun _ => getLatches_does.bind fun l =>
    (dummyRead_does (zeroPage l.bal)).bind fun _ => getRegs_does.bind fun g => (readPointer_does (l.bal + g.x)).bind
      fun _ => getLatches_does.bind fun k => Does.pure (word k.adh k.adl)
  exact h.weaken id (by omega) (by omega)
    (by rintro g g' ⟨_, _, rfl, _, _, rfl, _, _, rfl, _, _, rfl, _, _, rfl, _, _, rfl, rfl⟩; rfl)

theorem eaIzy_does (fix : Fixup) (b1 : Byte) :
    Does false (2 + fix.least) 3 (fun g g' => g' = g) (eaIzy fix b1) := by
  have h := (setLatches_does fun l => { l with bal := b1 }).bind fun _ => getLatches_does.bind fun l =>
    (readPointer_does l.bal).bind fun _ => getRegs_does.bind fun g => indexed_does fix g.y
  exact h.weaken id (by omega) (by omega) (by rintro g g' ⟨_, _, rfl, _, _, rfl, _, _, rfl, _, _, rfl, rfl⟩; rfl)

/-- Class R, immediate: the registers are the operation's. -/
theorem readImm_does (b1 : Byte) (op : Byte → Regs → Regs) :
    Does false 0 0 (fun g g' => g' = op b1 g) (readImm b1 op) :=
  Does.silent fun r => ⟨(), op b1 r.m.regs, { r.q.latch with dl := b1 }, rfl, by
    conv_lhs => rw [← Run.went_nil r]
    rfl⟩

/-- Class R: the registers are the operation's, on some byte. -/
theorem readOperand_does {lo hi : Nat} {ea : M Word} (op : Byte → Regs → Regs)
    (h : Does false lo hi (fun g g' => g' = g) ea) :
    Does false (lo + 1) (hi + 1) (fun g g' => ∃ v, g' = op v g) (readOperand ea op) := by
  have h' := h.bind fun a => (readCycle_does a).bind fun v => (setLatches_does fun k => { k with dl := v }).bind
    fun _ => getLatches_does.bind fun l => setRegs_does (op l.dl)
  refine h'.weaken id (by omega) (by omega) ?_
  rintro g g' ⟨_, _, rfl, _, _, rfl, _, _, rfl, _, _, rfl, rfl⟩
  exact ⟨_, rfl⟩

/-- Class W: no register changes. -/
theorem writeOperand_does {lo hi : Nat} {ea : M Word} (reg : Regs → Byte)
    (h : Does false lo hi (fun g g' => g' = g) ea) :
    Does true (lo + 1) (hi + 1) (fun g g' => g' = g) (writeOperand ea reg) := by
  have h' := h.may.bind fun a => getRegs_does.may.bind fun g => writeCycle_does a (reg g)
  exact h'.weaken id (by omega) (by omega) (by rintro g g' ⟨_, _, rfl, _, _, rfl, rfl⟩; rfl)

/-- Class M: the registers are the operation's, on some byte. -/
theorem modifyOperand_does {lo hi : Nat} {ea : M Word} (op : Byte → Regs → Byte × Regs)
    (h : Does false lo hi (fun g g' => g' = g) ea) :
    Does true (lo + 3) (hi + 3) (fun g g' => ∃ v, g' = (op v g).2) (modifyOperand ea op) := by
  have h' := h.may.bind fun a => (readCycle_does a).may.bind fun v =>
    (setLatches_does fun k => { k with dl := v }).may.bind fun _ => getLatches_does.may.bind fun l =>
      (writeCycle_does a l.dl).bind fun _ => getRegs_does.may.bind fun g =>
        (writeCycle_does a (op l.dl g).1).bind fun _ => (setRegs_does fun g => (op l.dl g).2).may
  refine h'.weaken id (by omega) (by omega) ?_
  rintro g g' ⟨_, _, rfl, _, _, rfl, _, _, rfl, _, _, rfl, _, _, rfl, _, _, rfl, _, _, rfl, rfl⟩
  exact ⟨_, rfl⟩

/-- Class I: the registers are the operation's. -/
theorem implied_does (op : Regs → Regs) : Does false 1 1 (fun g g' => g' = op g) (implied op) := by
  have h := getRegs_does.bind fun g => (dummyRead_does g.pc).bind fun _ => setRegs_does op
  exact h.weaken id (by omega) (by omega) (by rintro g g' ⟨_, _, rfl, _, _, rfl, rfl⟩; rfl)

/-- Class I in accumulator mode: the result goes to A. -/
theorem accumulator_does (op : Byte → Regs → Byte × Regs) :
    Does false 1 1 (fun g g' => g' = { (op g.a g).2 with a := (op g.a g).1 }) (accumulator op) := implied_does _

end Sys2Proof.Machine
end

