-- ==== Sys2Proof/Laws/PerInstr.lean ====
section
/-! SUPPORT. The family `Encoding`: for every instruction, what its bytes and its row of the opcode table say
together. -/

namespace Sys2Proof.Laws.Encoding

open Sys2Proof.Machine

/-- An instruction is well-formed and one to three bytes long (30_encoding.md R301), and its fetch and its
least and most cycles fit in the longest sequence (41_addressing_pipeline.md R490; 40_cycle_engine.md
R425). -/
def Statement (i : Instr) : Prop :=
  i.wf = true ∧ 1 ≤ i.length ∧ i.length ≤ 3 ∧ 2 ≤ baseCycles i ∧ fetchCycles i ≤ baseCycles i ∧
    baseCycles i + maxExtraCycles i ≤ maxStepCycles

/-- The statement from an instruction's opcode, length, fetch cycles and kind. -/
theorem of {i : Instr} (op : Byte) (hop : opcodeOf i = op) (n : Nat) (hn : i.length = n) (f : Nat)
    (hf : fetchCycles i = f) (e : Bool) (he : isBranch i = e)
    (h : 1 ≤ n ∧ n ≤ 3 ∧ 2 ≤ baseCyclesAt op ∧ f ≤ baseCyclesAt op ∧
      baseCyclesAt op + (if e then 2 else if op ∈ pageCrossOpcodes then 1 else 0) ≤ maxStepCycles) :
    Statement i := by
  subst hop hn hf he
  exact ⟨rfl, h⟩

theorem ldaImm (b1 : Byte) : Statement (.ldaImm b1) :=
  of 0xA9 rfl 2 rfl 2 rfl false rfl (by decide)

theorem ldaZp (b1 : Byte) : Statement (.ldaZp b1) :=
  of 0xA5 rfl 2 rfl 2 rfl false rfl (by decide)

theorem ldaZpx (b1 : Byte) : Statement (.ldaZpx b1) :=
  of 0xB5 rfl 2 rfl 2 rfl false rfl (by decide)

theorem ldaAbs (b1 b2 : Byte) : Statement (.ldaAbs b1 b2) :=
  of 0xAD rfl 3 rfl 3 rfl false rfl (by decide)

theorem ldaAbsx (b1 b2 : Byte) : Statement (.ldaAbsx b1 b2) :=
  of 0xBD rfl 3 rfl 3 rfl false rfl (by decide)

theorem ldaAbsy (b1 b2 : Byte) : Statement (.ldaAbsy b1 b2) :=
  of 0xB9 rfl 3 rfl 3 rfl false rfl (by decide)

theorem ldaIzx (b1 : Byte) : Statement (.ldaIzx b1) :=
  of 0xA1 rfl 2 rfl 2 rfl false rfl (by decide)

theorem ldaIzy (b1 : Byte) : Statement (.ldaIzy b1) :=
  of 0xB1 rfl 2 rfl 2 rfl false rfl (by decide)

theorem ldxImm (b1 : Byte) : Statement (.ldxImm b1) :=
  of 0xA2 rfl 2 rfl 2 rfl false rfl (by decide)

theorem ldxZp (b1 : Byte) : Statement (.ldxZp b1) :=
  of 0xA6 rfl 2 rfl 2 rfl false rfl (by decide)

theorem ldxZpy (b1 : Byte) : Statement (.ldxZpy b1) :=
  of 0xB6 rfl 2 rfl 2 rfl false rfl (by decide)

theorem ldxAbs (b1 b2 : Byte) : Statement (.ldxAbs b1 b2) :=
  of 0xAE rfl 3 rfl 3 rfl false rfl (by decide)

theorem ldxAbsy (b1 b2 : Byte) : Statement (.ldxAbsy b1 b2) :=
  of 0xBE rfl 3 rfl 3 rfl false rfl (by decide)

theorem ldyImm (b1 : Byte) : Statement (.ldyImm b1) :=
  of 0xA0 rfl 2 rfl 2 rfl false rfl (by decide)

theorem ldyZp (b1 : Byte) : Statement (.ldyZp b1) :=
  of 0xA4 rfl 2 rfl 2 rfl false rfl (by decide)

theorem ldyZpx (b1 : Byte) : Statement (.ldyZpx b1) :=
  of 0xB4 rfl 2 rfl 2 rfl false rfl (by decide)

theorem ldyAbs (b1 b2 : Byte) : Statement (.ldyAbs b1 b2) :=
  of 0xAC rfl 3 rfl 3 rfl false rfl (by decide)

theorem ldyAbsx (b1 b2 : Byte) : Statement (.ldyAbsx b1 b2) :=
  of 0xBC rfl 3 rfl 3 rfl false rfl (by decide)

theorem staZp (b1 : Byte) : Statement (.staZp b1) :=
  of 0x85 rfl 2 rfl 2 rfl false rfl (by decide)

theorem staZpx (b1 : Byte) : Statement (.staZpx b1) :=
  of 0x95 rfl 2 rfl 2 rfl false rfl (by decide)

theorem staAbs (b1 b2 : Byte) : Statement (.staAbs b1 b2) :=
  of 0x8D rfl 3 rfl 3 rfl false rfl (by decide)

theorem staAbsx (b1 b2 : Byte) : Statement (.staAbsx b1 b2) :=
  of 0x9D rfl 3 rfl 3 rfl false rfl (by decide)

theorem staAbsy (b1 b2 : Byte) : Statement (.staAbsy b1 b2) :=
  of 0x99 rfl 3 rfl 3 rfl false rfl (by decide)

theorem staIzx (b1 : Byte) : Statement (.staIzx b1) :=
  of 0x81 rfl 2 rfl 2 rfl false rfl (by decide)

theorem staIzy (b1 : Byte) : Statement (.staIzy b1) :=
  of 0x91 rfl 2 rfl 2 rfl false rfl (by decide)

theorem stxZp (b1 : Byte) : Statement (.stxZp b1) :=
  of 0x86 rfl 2 rfl 2 rfl false rfl (by decide)

theorem stxZpy (b1 : Byte) : Statement (.stxZpy b1) :=
  of 0x96 rfl 2 rfl 2 rfl false rfl (by decide)

theorem stxAbs (b1 b2 : Byte) : Statement (.stxAbs b1 b2) :=
  of 0x8E rfl 3 rfl 3 rfl false rfl (by decide)

theorem styZp (b1 : Byte) : Statement (.styZp b1) :=
  of 0x84 rfl 2 rfl 2 rfl false rfl (by decide)

theorem styZpx (b1 : Byte) : Statement (.styZpx b1) :=
  of 0x94 rfl 2 rfl 2 rfl false rfl (by decide)

theorem styAbs (b1 b2 : Byte) : Statement (.styAbs b1 b2) :=
  of 0x8C rfl 3 rfl 3 rfl false rfl (by decide)

theorem tax : Statement .tax :=
  of 0xAA rfl 1 rfl 1 rfl false rfl (by decide)

theorem tay : Statement .tay :=
  of 0xA8 rfl 1 rfl 1 rfl false rfl (by decide)

theorem tsx : Statement .tsx :=
  of 0xBA rfl 1 rfl 1 rfl false rfl (by decide)

theorem txa : Statement .txa :=
  of 0x8A rfl 1 rfl 1 rfl false rfl (by decide)

theorem txs : Statement .txs :=
  of 0x9A rfl 1 rfl 1 rfl false rfl (by decide)

theorem tya : Statement .tya :=
  of 0x98 rfl 1 rfl 1 rfl false rfl (by decide)

theorem adcImm (b1 : Byte) : Statement (.adcImm b1) :=
  of 0x69 rfl 2 rfl 2 rfl false rfl (by decide)

theorem adcZp (b1 : Byte) : Statement (.adcZp b1) :=
  of 0x65 rfl 2 rfl 2 rfl false rfl (by decide)

theorem adcZpx (b1 : Byte) : Statement (.adcZpx b1) :=
  of 0x75 rfl 2 rfl 2 rfl false rfl (by decide)

theorem adcAbs (b1 b2 : Byte) : Statement (.adcAbs b1 b2) :=
  of 0x6D rfl 3 rfl 3 rfl false rfl (by decide)

theorem adcAbsx (b1 b2 : Byte) : Statement (.adcAbsx b1 b2) :=
  of 0x7D rfl 3 rfl 3 rfl false rfl (by decide)

theorem adcAbsy (b1 b2 : Byte) : Statement (.adcAbsy b1 b2) :=
  of 0x79 rfl 3 rfl 3 rfl false rfl (by decide)

theorem adcIzx (b1 : Byte) : Statement (.adcIzx b1) :=
  of 0x61 rfl 2 rfl 2 rfl false rfl (by decide)

theorem adcIzy (b1 : Byte) : Statement (.adcIzy b1) :=
  of 0x71 rfl 2 rfl 2 rfl false rfl (by decide)

theorem sbcImm (b1 : Byte) : Statement (.sbcImm b1) :=
  of 0xE9 rfl 2 rfl 2 rfl false rfl (by decide)

theorem sbcZp (b1 : Byte) : Statement (.sbcZp b1) :=
  of 0xE5 rfl 2 rfl 2 rfl false rfl (by decide)

theorem sbcZpx (b1 : Byte) : Statement (.sbcZpx b1) :=
  of 0xF5 rfl 2 rfl 2 rfl false rfl (by decide)

theorem sbcAbs (b1 b2 : Byte) : Statement (.sbcAbs b1 b2) :=
  of 0xED rfl 3 rfl 3 rfl false rfl (by decide)

theorem sbcAbsx (b1 b2 : Byte) : Statement (.sbcAbsx b1 b2) :=
  of 0xFD rfl 3 rfl 3 rfl false rfl (by decide)

theorem sbcAbsy (b1 b2 : Byte) : Statement (.sbcAbsy b1 b2) :=
  of 0xF9 rfl 3 rfl 3 rfl false rfl (by decide)

theorem sbcIzx (b1 : Byte) : Statement (.sbcIzx b1) :=
  of 0xE1 rfl 2 rfl 2 rfl false rfl (by decide)

theorem sbcIzy (b1 : Byte) : Statement (.sbcIzy b1) :=
  of 0xF1 rfl 2 rfl 2 rfl false rfl (by decide)

theorem cmpImm (b1 : Byte) : Statement (.cmpImm b1) :=
  of 0xC9 rfl 2 rfl 2 rfl false rfl (by decide)

theorem cmpZp (b1 : Byte) : Statement (.cmpZp b1) :=
  of 0xC5 rfl 2 rfl 2 rfl false rfl (by decide)

theorem cmpZpx (b1 : Byte) : Statement (.cmpZpx b1) :=
  of 0xD5 rfl 2 rfl 2 rfl false rfl (by decide)

theorem cmpAbs (b1 b2 : Byte) : Statement (.cmpAbs b1 b2) :=
  of 0xCD rfl 3 rfl 3 rfl false rfl (by decide)

theorem cmpAbsx (b1 b2 : Byte) : Statement (.cmpAbsx b1 b2) :=
  of 0xDD rfl 3 rfl 3 rfl false rfl (by decide)

theorem cmpAbsy (b1 b2 : Byte) : Statement (.cmpAbsy b1 b2) :=
  of 0xD9 rfl 3 rfl 3 rfl false rfl (by decide)

theorem cmpIzx (b1 : Byte) : Statement (.cmpIzx b1) :=
  of 0xC1 rfl 2 rfl 2 rfl false rfl (by decide)

theorem cmpIzy (b1 : Byte) : Statement (.cmpIzy b1) :=
  of 0xD1 rfl 2 rfl 2 rfl false rfl (by decide)

theorem cpxImm (b1 : Byte) : Statement (.cpxImm b1) :=
  of 0xE0 rfl 2 rfl 2 rfl false rfl (by decide)

theorem cpxZp (b1 : Byte) : Statement (.cpxZp b1) :=
  of 0xE4 rfl 2 rfl 2 rfl false rfl (by decide)

theorem cpxAbs (b1 b2 : Byte) : Statement (.cpxAbs b1 b2) :=
  of 0xEC rfl 3 rfl 3 rfl false rfl (by decide)

theorem cpyImm (b1 : Byte) : Statement (.cpyImm b1) :=
  of 0xC0 rfl 2 rfl 2 rfl false rfl (by decide)

theorem cpyZp (b1 : Byte) : Statement (.cpyZp b1) :=
  of 0xC4 rfl 2 rfl 2 rfl false rfl (by decide)

theorem cpyAbs (b1 b2 : Byte) : Statement (.cpyAbs b1 b2) :=
  of 0xCC rfl 3 rfl 3 rfl false rfl (by decide)

theorem incZp (b1 : Byte) : Statement (.incZp b1) :=
  of 0xE6 rfl 2 rfl 2 rfl false rfl (by decide)

theorem incZpx (b1 : Byte) : Statement (.incZpx b1) :=
  of 0xF6 rfl 2 rfl 2 rfl false rfl (by decide)

theorem incAbs (b1 b2 : Byte) : Statement (.incAbs b1 b2) :=
  of 0xEE rfl 3 rfl 3 rfl false rfl (by decide)

theorem incAbsx (b1 b2 : Byte) : Statement (.incAbsx b1 b2) :=
  of 0xFE rfl 3 rfl 3 rfl false rfl (by decide)

theorem decZp (b1 : Byte) : Statement (.decZp b1) :=
  of 0xC6 rfl 2 rfl 2 rfl false rfl (by decide)

theorem decZpx (b1 : Byte) : Statement (.decZpx b1) :=
  of 0xD6 rfl 2 rfl 2 rfl false rfl (by decide)

theorem decAbs (b1 b2 : Byte) : Statement (.decAbs b1 b2) :=
  of 0xCE rfl 3 rfl 3 rfl false rfl (by decide)

theorem decAbsx (b1 b2 : Byte) : Statement (.decAbsx b1 b2) :=
  of 0xDE rfl 3 rfl 3 rfl false rfl (by decide)

theorem inx : Statement .inx :=
  of 0xE8 rfl 1 rfl 1 rfl false rfl (by decide)

theorem iny : Statement .iny :=
  of 0xC8 rfl 1 rfl 1 rfl false rfl (by decide)

theorem dex : Statement .dex :=
  of 0xCA rfl 1 rfl 1 rfl false rfl (by decide)

theorem dey : Statement .dey :=
  of 0x88 rfl 1 rfl 1 rfl false rfl (by decide)

theorem andImm (b1 : Byte) : Statement (.andImm b1) :=
  of 0x29 rfl 2 rfl 2 rfl false rfl (by decide)

theorem andZp (b1 : Byte) : Statement (.andZp b1) :=
  of 0x25 rfl 2 rfl 2 rfl false rfl (by decide)

theorem andZpx (b1 : Byte) : Statement (.andZpx b1) :=
  of 0x35 rfl 2 rfl 2 rfl false rfl (by decide)

theorem andAbs (b1 b2 : Byte) : Statement (.andAbs b1 b2) :=
  of 0x2D rfl 3 rfl 3 rfl false rfl (by decide)

theorem andAbsx (b1 b2 : Byte) : Statement (.andAbsx b1 b2) :=
  of 0x3D rfl 3 rfl 3 rfl false rfl (by decide)

theorem andAbsy (b1 b2 : Byte) : Statement (.andAbsy b1 b2) :=
  of 0x39 rfl 3 rfl 3 rfl false rfl (by decide)

theorem andIzx (b1 : Byte) : Statement (.andIzx b1) :=
  of 0x21 rfl 2 rfl 2 rfl false rfl (by decide)

theorem andIzy (b1 : Byte) : Statement (.andIzy b1) :=
  of 0x31 rfl 2 rfl 2 rfl false rfl (by decide)

theorem oraImm (b1 : Byte) : Statement (.oraImm b1) :=
  of 0x09 rfl 2 rfl 2 rfl false rfl (by decide)

theorem oraZp (b1 : Byte) : Statement (.oraZp b1) :=
  of 0x05 rfl 2 rfl 2 rfl false rfl (by decide)

theorem oraZpx (b1 : Byte) : Statement (.oraZpx b1) :=
  of 0x15 rfl 2 rfl 2 rfl false rfl (by decide)

theorem oraAbs (b1 b2 : Byte) : Statement (.oraAbs b1 b2) :=
  of 0x0D rfl 3 rfl 3 rfl false rfl (by decide)

theorem oraAbsx (b1 b2 : Byte) : Statement (.oraAbsx b1 b2) :=
  of 0x1D rfl 3 rfl 3 rfl false rfl (by decide)

theorem oraAbsy (b1 b2 : Byte) : Statement (.oraAbsy b1 b2) :=
  of 0x19 rfl 3 rfl 3 rfl false rfl (by decide)

theorem oraIzx (b1 : Byte) : Statement (.oraIzx b1) :=
  of 0x01 rfl 2 rfl 2 rfl false rfl (by decide)

theorem oraIzy (b1 : Byte) : Statement (.oraIzy b1) :=
  of 0x11 rfl 2 rfl 2 rfl false rfl (by decide)

theorem eorImm (b1 : Byte) : Statement (.eorImm b1) :=
  of 0x49 rfl 2 rfl 2 rfl false rfl (by decide)

theorem eorZp (b1 : Byte) : Statement (.eorZp b1) :=
  of 0x45 rfl 2 rfl 2 rfl false rfl (by decide)

theorem eorZpx (b1 : Byte) : Statement (.eorZpx b1) :=
  of 0x55 rfl 2 rfl 2 rfl false rfl (by decide)

theorem eorAbs (b1 b2 : Byte) : Statement (.eorAbs b1 b2) :=
  of 0x4D rfl 3 rfl 3 rfl false rfl (by decide)

theorem eorAbsx (b1 b2 : Byte) : Statement (.eorAbsx b1 b2) :=
  of 0x5D rfl 3 rfl 3 rfl false rfl (by decide)

theorem eorAbsy (b1 b2 : Byte) : Statement (.eorAbsy b1 b2) :=
  of 0x59 rfl 3 rfl 3 rfl false rfl (by decide)

theorem eorIzx (b1 : Byte) : Statement (.eorIzx b1) :=
  of 0x41 rfl 2 rfl 2 rfl false rfl (by decide)

theorem eorIzy (b1 : Byte) : Statement (.eorIzy b1) :=
  of 0x51 rfl 2 rfl 2 rfl false rfl (by decide)

theorem bitZp (b1 : Byte) : Statement (.bitZp b1) :=
  of 0x24 rfl 2 rfl 2 rfl false rfl (by decide)

theorem bitAbs (b1 b2 : Byte) : Statement (.bitAbs b1 b2) :=
  of 0x2C rfl 3 rfl 3 rfl false rfl (by decide)

theorem aslAcc : Statement .aslAcc :=
  of 0x0A rfl 1 rfl 1 rfl false rfl (by decide)

theorem aslZp (b1 : Byte) : Statement (.aslZp b1) :=
  of 0x06 rfl 2 rfl 2 rfl false rfl (by decide)

theorem aslZpx (b1 : Byte) : Statement (.aslZpx b1) :=
  of 0x16 rfl 2 rfl 2 rfl false rfl (by decide)

theorem aslAbs (b1 b2 : Byte) : Statement (.aslAbs b1 b2) :=
  of 0x0E rfl 3 rfl 3 rfl false rfl (by decide)

theorem aslAbsx (b1 b2 : Byte) : Statement (.aslAbsx b1 b2) :=
  of 0x1E rfl 3 rfl 3 rfl false rfl (by decide)

theorem lsrAcc : Statement .lsrAcc :=
  of 0x4A rfl 1 rfl 1 rfl false rfl (by decide)

theorem lsrZp (b1 : Byte) : Statement (.lsrZp b1) :=
  of 0x46 rfl 2 rfl 2 rfl false rfl (by decide)

theorem lsrZpx (b1 : Byte) : Statement (.lsrZpx b1) :=
  of 0x56 rfl 2 rfl 2 rfl false rfl (by decide)

theorem lsrAbs (b1 b2 : Byte) : Statement (.lsrAbs b1 b2) :=
  of 0x4E rfl 3 rfl 3 rfl false rfl (by decide)

theorem lsrAbsx (b1 b2 : Byte) : Statement (.lsrAbsx b1 b2) :=
  of 0x5E rfl 3 rfl 3 rfl false rfl (by decide)

theorem rolAcc : Statement .rolAcc :=
  of 0x2A rfl 1 rfl 1 rfl false rfl (by decide)

theorem rolZp (b1 : Byte) : Statement (.rolZp b1) :=
  of 0x26 rfl 2 rfl 2 rfl false rfl (by decide)

theorem rolZpx (b1 : Byte) : Statement (.rolZpx b1) :=
  of 0x36 rfl 2 rfl 2 rfl false rfl (by decide)

theorem rolAbs (b1 b2 : Byte) : Statement (.rolAbs b1 b2) :=
  of 0x2E rfl 3 rfl 3 rfl false rfl (by decide)

theorem rolAbsx (b1 b2 : Byte) : Statement (.rolAbsx b1 b2) :=
  of 0x3E rfl 3 rfl 3 rfl false rfl (by decide)

theorem rorAcc : Statement .rorAcc :=
  of 0x6A rfl 1 rfl 1 rfl false rfl (by decide)

theorem rorZp (b1 : Byte) : Statement (.rorZp b1) :=
  of 0x66 rfl 2 rfl 2 rfl false rfl (by decide)

theorem rorZpx (b1 : Byte) : Statement (.rorZpx b1) :=
  of 0x76 rfl 2 rfl 2 rfl false rfl (by decide)

theorem rorAbs (b1 b2 : Byte) : Statement (.rorAbs b1 b2) :=
  of 0x6E rfl 3 rfl 3 rfl false rfl (by decide)

theorem rorAbsx (b1 b2 : Byte) : Statement (.rorAbsx b1 b2) :=
  of 0x7E rfl 3 rfl 3 rfl false rfl (by decide)

theorem bplRel (b1 : Byte) : Statement (.bplRel b1) :=
  of 0x10 rfl 2 rfl 2 rfl true rfl (by decide)

theorem bmiRel (b1 : Byte) : Statement (.bmiRel b1) :=
  of 0x30 rfl 2 rfl 2 rfl true rfl (by decide)

theorem bvcRel (b1 : Byte) : Statement (.bvcRel b1) :=
  of 0x50 rfl 2 rfl 2 rfl true rfl (by decide)

theorem bvsRel (b1 : Byte) : Statement (.bvsRel b1) :=
  of 0x70 rfl 2 rfl 2 rfl true rfl (by decide)

theorem bccRel (b1 : Byte) : Statement (.bccRel b1) :=
  of 0x90 rfl 2 rfl 2 rfl true rfl (by decide)

theorem bcsRel (b1 : Byte) : Statement (.bcsRel b1) :=
  of 0xB0 rfl 2 rfl 2 rfl true rfl (by decide)

theorem bneRel (b1 : Byte) : Statement (.bneRel b1) :=
  of 0xD0 rfl 2 rfl 2 rfl true rfl (by decide)

theorem beqRel (b1 : Byte) : Statement (.beqRel b1) :=
  of 0xF0 rfl 2 rfl 2 rfl true rfl (by decide)

theorem jmpAbs (b1 b2 : Byte) : Statement (.jmpAbs b1 b2) :=
  of 0x4C rfl 3 rfl 3 rfl false rfl (by decide)

theorem jmpInd (b1 b2 : Byte) : Statement (.jmpInd b1 b2) :=
  of 0x6C rfl 3 rfl 3 rfl false rfl (by decide)

theorem jsrAbs (b1 b2 : Byte) : Statement (.jsrAbs b1 b2) :=
  of 0x20 rfl 3 rfl 2 rfl false rfl (by decide)

theorem rts : Statement .rts :=
  of 0x60 rfl 1 rfl 1 rfl false rfl (by decide)

theorem brk : Statement .brk :=
  of 0x00 rfl 1 rfl 1 rfl false rfl (by decide)

theorem rti : Statement .rti :=
  of 0x40 rfl 1 rfl 1 rfl false rfl (by decide)

theorem pha : Statement .pha :=
  of 0x48 rfl 1 rfl 1 rfl false rfl (by decide)

theorem php : Statement .php :=
  of 0x08 rfl 1 rfl 1 rfl false rfl (by decide)

theorem pla : Statement .pla :=
  of 0x68 rfl 1 rfl 1 rfl false rfl (by decide)

theorem plp : Statement .plp :=
  of 0x28 rfl 1 rfl 1 rfl false rfl (by decide)

theorem clc : Statement .clc :=
  of 0x18 rfl 1 rfl 1 rfl false rfl (by decide)

theorem sec : Statement .sec :=
  of 0x38 rfl 1 rfl 1 rfl false rfl (by decide)

theorem cld : Statement .cld :=
  of 0xD8 rfl 1 rfl 1 rfl false rfl (by decide)

theorem sed : Statement .sed :=
  of 0xF8 rfl 1 rfl 1 rfl false rfl (by decide)

theorem cli : Statement .cli :=
  of 0x58 rfl 1 rfl 1 rfl false rfl (by decide)

theorem sei : Statement .sei :=
  of 0x78 rfl 1 rfl 1 rfl false rfl (by decide)

theorem clv : Statement .clv :=
  of 0xB8 rfl 1 rfl 1 rfl false rfl (by decide)

theorem nop : Statement .nop :=
  of 0xEA rfl 1 rfl 1 rfl false rfl (by decide)

end Sys2Proof.Laws.Encoding
end

