-- ==== Sys2Proof/Laws/Sequences.lean ====
section
/-! SUPPORT. What the sequences with cycle tables of their own do: interrupt entry and return, the service
sequence, branches, jumps, subroutines and the stack instructions. -/

namespace Sys2Proof.Machine

/-! ### Everything a part of these sequences can do -/

theorem beginPull_does : Does false 1 1 (fun g g' => g' = { g with s := g.s + 1 }) beginPull := by
  have h := getRegs_does.bind fun g => (dummyRead_does (stackAddress g.s)).bind fun _ =>
    setRegs_does fun g => { g with s := g.s + 1 }
  exact h.weaken id (by omega) (by omega) (by rintro g g' ⟨_, _, rfl, _, _, rfl, rfl⟩; rfl)

theorem readStack_does : Does false 1 1 (fun g g' => g' = g) readStack := by
  have h := getRegs_does.bind fun g => readCycle_does (stackAddress g.s)
  exact h.weaken id (by omega) (by omega) (by rintro g g' ⟨_, _, rfl, rfl⟩; rfl)

theorem readStackInc_does : Does false 1 1 (fun g g' => g' = { g with s := g.s + 1 }) readStackInc := by
  have h := readStack_does.bind fun v => (setRegs_does fun g => { g with s := g.s + 1 }).bind fun _ => Does.pure v
  exact h.weaken id (by omega) (by omega) (by rintro g g' ⟨_, _, rfl, _, _, rfl, rfl⟩; rfl)

theorem setPc_does (a : Word) : Does false 0 0 (fun g g' => g' = { g with pc := a }) (setPc a) := setRegs_does _

/-- Interrupt entry: five cycles; S less 3, I set, PC from the vector, nothing else. -/
theorem interruptEntry_does (b : Bool) (vector : Word) :
    Does true 5 5 (fun g g' => ∃ pc, g' = { g with s := g.s - 1 - 1 - 1, i := true, pc := pc })
      (interruptEntry b vector) := by
  have h := getRegs_does.may.bind fun g => (push_does (hi8 g.pc)).bind fun _ => (push_does (lo8 g.pc)).bind fun _ =>
    (push_does (g.pByte b)).bind fun _ => (setRegs_does fun g => { g with i := true }).may.bind fun _ =>
      (readCycle_does vector).may.bind fun u => (setLatches_does fun l => { l with adl := u }).may.bind fun _ =>
        (readCycle_does (vector + 1)).may.bind fun v => (setLatches_does fun l => { l with adh := v }).may.bind
          fun _ => getLatches_does.may.bind fun l => (setPc_does (word l.adh l.adl)).may
  refine h.weaken id (by omega) (by omega) ?_
  rintro g g' ⟨_, _, rfl, _, _, rfl, _, _, rfl, _, _, rfl, _, _, rfl, _, _, rfl, _, _, rfl, _, _, rfl, _, _, rfl, _, _,
    rfl, rfl⟩
  exact ⟨_, rfl⟩

/-- Return from interrupt: four cycles; S more by 3, the flags from a byte, PC, nothing else. -/
theorem interruptReturn_does :
    Does false 4 4 (fun g g' => ∃ p pc, g' = { g.loadP p with s := g.s + 1 + 1 + 1, pc := pc }) interruptReturn := by
  have h := beginPull_does.bind fun _ => readStackInc_does.bind fun p => (setRegs_does fun g => g.loadP p).bind
    fun _ => readStackInc_does.bind fun l => (setRegs_does fun g => { g with pc := word (hi8 g.pc) l }).bind fun _ =>
      readStack_does.bind fun u => setRegs_does fun g => { g with pc := word u (lo8 g.pc) }
  refine h.weaken id (by omega) (by omega) ?_
  rintro g g' ⟨_, _, rfl, _, _, rfl, _, _, rfl, _, _, rfl, _, _, rfl, _, _, rfl, rfl⟩
  exact ⟨_, _, rfl⟩

/-- The service sequence: seven cycles and interrupt entry. -/
theorem serviceSequence_does (k : ServiceKind) :
    Does true 7 7 (fun g g' => ∃ pc, g' = { g with s := g.s - 1 - 1 - 1, i := true, pc := pc })
      (serviceSequence k) := by
  have h := (setLatches_does fun l => { l with ir := .service k }).may.bind fun _ => getRegs_does.may.bind fun g =>
    (dummyRead_does g.pc).may.bind fun _ => (dummyRead_does g.pc).may.bind fun _ => getLatches_does.may.bind fun l =>
      interruptEntry_does false l.ir.vector
  refine h.weaken id (by omega) (by omega) ?_
  rintro g g' ⟨_, _, rfl, _, _, rfl, _, _, rfl, _, _, rfl, _, _, rfl, pc, rfl⟩
  exact ⟨pc, rfl⟩

/-- A branch: at most two cycles, and nothing but PC. -/
theorem branch_does (taken : Regs → Bool) (b1 : Byte) :
    Does false 0 2 (fun g g' => ∃ pc, g' = { g with pc := pc }) (branch taken b1) := by
  have key : ∀ (a target : Word) (c : Bool), Does false 0 1 (fun g g' => g' = { g with pc := target })
      (if c then do
          dummyRead a
          setPc target
        else setPc target : M Unit) := by
    intro a target c
    split
    · exact ((dummyRead_does _).bind fun _ => setPc_does target).weaken id (by omega) (by omega)
        (by rintro g g' ⟨_, _, rfl, rfl⟩; rfl)
    · exact (setPc_does target).weaken id (by omega) (by omega) (fun _ _ h => h)
  have inner : ∀ g : Regs, Does false 0 2 (fun g g' => ∃ pc, g' = { g with pc := pc })
      (if taken g then do
          dummyRead g.pc
          latchCross (hi8 (g.pc + sext b1) != hi8 g.pc)
          let l ← getLatches
          if l.cross then do
            dummyRead (word (hi8 g.pc) (lo8 (g.pc + sext b1)))
            setPc (g.pc + sext b1)
          else setPc (g.pc + sext b1)
        else pure () : M Unit) := by
    intro g
    split
    · refine ((dummyRead_does _).bind fun _ => (setLatches_does fun l => { l with cross := _ }).bind fun _ =>
        getLatches_does.bind fun l => key _ _ l.cross).weaken id (by omega) (by omega) ?_
      rintro g g' ⟨_, _, rfl, _, _, rfl, _, _, rfl, rfl⟩
      exact ⟨_, rfl⟩
    · exact (Does.pure ()).weaken id (by omega) (by omega) (by rintro g g' rfl; exact ⟨_, rfl⟩)
  have h := getRegs_does.bind inner
  exact h.weaken id (by omega) (by omega) (by rintro g g' ⟨_, _, rfl, h⟩; exact h)

/-- A push instruction: two cycles, S less 1 and nothing else. -/
theorem pushInstr_does (byte : Regs → Byte) :
    Does true 2 2 (fun g g' => g' = { g with s := g.s - 1 }) (pushInstr byte) := by
  have h := getRegs_does.may.bind fun g => (dummyRead_does g.pc).may.bind fun _ => push_does (byte g)
  exact h.weaken id (by omega) (by omega) (by rintro g g' ⟨_, _, rfl, _, _, rfl, rfl⟩; rfl)

/-- A pull instruction: three cycles, S more by 1, then the operation on some byte. -/
theorem pullInstr_does (op : Byte → Regs → Regs) :
    Does false 3 3 (fun g g' => ∃ v, g' = op v { g with s := g.s + 1 }) (pullInstr op) := by
  have h := getRegs_does.bind fun g => (dummyRead_does g.pc).bind fun _ => beginPull_does.bind fun _ =>
    readStack_does.bind fun v => setRegs_does (op v)
  refine h.weaken id (by omega) (by omega) ?_
  rintro g g' ⟨_, _, rfl, _, _, rfl, _, _, rfl, _, v, rfl, rfl⟩
  exact ⟨v, rfl⟩

/-- JMP absolute: no cycle of its own, and nothing but PC. -/
theorem jmpAbs_does (b1 b2 : Byte) : Does false 0 0 (fun g g' => g' = { g with pc := word b2 b1 }) (do
    latchAdl b1
    latchAdh b2
    let l ← getLatches
    setPc (word l.adh l.adl)) :=
  Does.silent fun r => ⟨(), { r.m.regs with pc := word b2 b1 }, { r.q.latch with adl := b1, adh := b2 }, rfl, by
    conv_lhs => rw [← Run.went_nil r]
    rfl⟩

/-- JMP indirect: two reads, and nothing but PC. -/
theorem jmpInd_does (b1 b2 : Byte) : Does false 2 2 (fun g g' => ∃ pc, g' = { g with pc := pc }) (do
    let adl ← readCycle (word b2 b1)
    latchAdl adl
    let adh ← readCycle (word b2 (b1 + 1))
    latchAdh adh
    let l ← getLatches
    setPc (word l.adh l.adl)) := by
  have h := (readCycle_does (word b2 b1)).bind fun u => (setLatches_does fun l => { l with adl := u }).bind fun _ =>
    (readCycle_does (word b2 (b1 + 1))).bind fun v => (setLatches_does fun l => { l with adh := v }).bind fun _ =>
      getLatches_does.bind fun l => setPc_does (word l.adh l.adl)
  refine h.weaken id (by omega) (by omega) ?_
  rintro g g' ⟨_, _, rfl, _, _, rfl, _, _, rfl, _, _, rfl, _, _, rfl, rfl⟩
  exact ⟨_, rfl⟩

/-- JSR: four cycles; S less 2, PC, nothing else. -/
theorem jsrAbs_does (b1 : Byte) :
    Does true 4 4 (fun g g' => ∃ pc, g' = { g with s := g.s - 1 - 1, pc := pc }) (do
      latchAdl b1
      let g ← getRegs
      dummyRead (stackAddress g.s)
      push (hi8 g.pc)
      push (lo8 g.pc)
      let adh ← readCycle g.pc
      latchAdh adh
      let l ← getLatches
      setPc (word l.adh l.adl)) := by
  have h := (setLatches_does fun l => { l with adl := b1 }).may.bind fun _ => getRegs_does.may.bind fun g =>
    (dummyRead_does (stackAddress g.s)).may.bind fun _ => (push_does (hi8 g.pc)).bind fun _ =>
      (push_does (lo8 g.pc)).bind fun _ => (readCycle_does g.pc).may.bind fun v =>
        (setLatches_does fun l => { l with adh := v }).may.bind fun _ => getLatches_does.may.bind fun l =>
          (setPc_does (word l.adh l.adl)).may
  refine h.weaken id (by omega) (by omega) ?_
  rintro g g' ⟨_, _, rfl, _, _, rfl, _, _, rfl, _, _, rfl, _, _, rfl, _, _, rfl, _, _, rfl, _, _, rfl, rfl⟩
  exact ⟨_, rfl⟩

/-- RTS: five reads; S more by 2, PC, nothing else. -/
theorem rts_does :
    Does false 5 5 (fun g g' => ∃ pc, g' = { g with s := g.s + 1 + 1, pc := pc }) (do
      let g ← getRegs
      dummyRead g.pc
      beginPull
      let pcl ← readStackInc
      setRegs (fun g => { g with pc := word (hi8 g.pc) pcl })
      let pch ← readStack
      setRegs (fun g => { g with pc := word pch (lo8 g.pc) })
      let g ← getRegs
      dummyRead g.pc
      incPc) := by
  have h := getRegs_does.bind fun g => (dummyRead_does g.pc).bind fun _ => beginPull_does.bind fun _ =>
    readStackInc_does.bind fun l => (setRegs_does fun g => { g with pc := word (hi8 g.pc) l }).bind fun _ =>
      readStack_does.bind fun u => (setRegs_does fun g => { g with pc := word u (lo8 g.pc) }).bind fun _ =>
        getRegs_does.bind fun g => (dummyRead_does g.pc).bind fun _ => setRegs_does fun g => { g with pc := g.pc + 1 }
  refine h.weaken id (by omega) (by omega) ?_
  rintro g g' ⟨_, _, rfl, _, _, rfl, _, _, rfl, _, _, rfl, _, _, rfl, _, _, rfl, _, _, rfl, _, _, rfl, _, _, rfl, rfl⟩
  exact ⟨_, rfl⟩

/-- BRK: a read and interrupt entry. -/
theorem brk_does :
    Does true 6 6 (fun g g' => ∃ pc, g' = { g with s := g.s - 1 - 1 - 1, i := true, pc := pc }) (do
      let g ← getRegs
      dummyRead g.pc
      incPc
      interruptEntry true irqVector) := by
  have h := getRegs_does.may.bind fun g => (dummyRead_does g.pc).may.bind fun _ =>
    (setRegs_does fun g => { g with pc := g.pc + 1 }).may.bind fun _ => interruptEntry_does true irqVector
  refine h.weaken id (by omega) (by omega) ?_
  rintro g g' ⟨_, _, rfl, _, _, rfl, _, _, rfl, pc, rfl⟩
  exact ⟨pc, rfl⟩

/-- RTI: a read and the return. -/
theorem rti_does :
    Does false 5 5 (fun g g' => ∃ p pc, g' = { g.loadP p with s := g.s + 1 + 1 + 1, pc := pc }) (do
      let g ← getRegs
      dummyRead g.pc
      interruptReturn) := by
  have h := getRegs_does.bind fun g => (dummyRead_does g.pc).bind fun _ => interruptReturn_does
  refine h.weaken id (by omega) (by omega) ?_
  rintro g g' ⟨_, _, rfl, _, _, rfl, h⟩
  exact h

/-! ### What they do, cycle by cycle -/

/-- Interrupt entry. -/
theorem interruptEntry_tracks (f : Bool) (vector : Word) (lo hi : Byte) (g : Regs) (l : Latches) :
    Tracks (interruptEntry f vector) g l
      [wr (stackAddress g.s) (hi8 g.pc), wr (stackAddress (g.s - 1)) (lo8 g.pc),
        wr (stackAddress (g.s - 1 - 1)) (g.pByte f), rd vector lo, rd (vector + 1) hi]
      () { g with s := g.s - 1 - 1 - 1, i := true, pc := word hi lo } { l with adl := lo, adh := hi } :=
  (getRegs_tracks g l).bind ((push_tracks (hi8 g.pc) g l).bind ((push_tracks (lo8 g.pc) _ l).bind
    ((push_tracks (g.pByte f) _ l).bind ((setRegs_tracks (fun g => { g with i := true }) _ l).bind
      ((readCycle_tracks vector lo _ l).bind ((setLatches_tracks (fun l => { l with adl := lo }) _ l).bind
        ((readCycle_tracks (vector + 1) hi _ _).bind ((setLatches_tracks (fun l => { l with adh := hi }) _ _).bind
          ((getLatches_tracks _ _).bind (setRegs_tracks (fun g => { g with pc := word hi lo }) _ _))))))))))

/-- Return from interrupt. -/
theorem interruptReturn_tracks (v p lo hi : Byte) (g : Regs) (l : Latches) :
    Tracks interruptReturn g l
      [rd (stackAddress g.s) v, rd (stackAddress (g.s + 1)) p, rd (stackAddress (g.s + 1 + 1)) lo,
        rd (stackAddress (g.s + 1 + 1 + 1)) hi]
      () { g.loadP p with s := g.s + 1 + 1 + 1, pc := word hi lo } l := by
  have h : Tracks interruptReturn g l
      [rd (stackAddress g.s) v, rd (stackAddress (g.s + 1)) p, rd (stackAddress (g.s + 1 + 1)) lo,
        rd (stackAddress (g.s + 1 + 1 + 1)) hi]
      () { g.loadP p with s := g.s + 1 + 1 + 1, pc := word hi (lo8 (word (hi8 g.pc) lo)) } l :=
    (beginPull_tracks v g l).bind ((readStackInc_tracks p { g with s := g.s + 1 } l).bind
    ((setRegs_tracks (fun g => g.loadP p) { g with s := g.s + 1 + 1 } l).bind
      ((readStackInc_tracks lo { g.loadP p with s := g.s + 1 + 1 } l).bind
        ((setRegs_tracks (fun g => { g with pc := word (hi8 g.pc) lo }) { g.loadP p with s := g.s + 1 + 1 + 1 } l).bind
          ((readStack_tracks hi { g.loadP p with s := g.s + 1 + 1 + 1, pc := word (hi8 g.pc) lo } l).bind
            (setRegs_tracks (fun g => { g with pc := word hi (lo8 g.pc) }) _ l))))))
  simpa only [lo8_word] using h

/-- The service sequence. -/
theorem serviceSequence_tracks (k : ServiceKind) (u v lo hi : Byte) (g : Regs) (l : Latches) :
    Tracks (serviceSequence k) g l
      [rd g.pc u, rd g.pc v, wr (stackAddress g.s) (hi8 g.pc), wr (stackAddress (g.s - 1)) (lo8 g.pc),
        wr (stackAddress (g.s - 1 - 1)) (g.pByte false), rd k.vector lo, rd (k.vector + 1) hi]
      () { g with s := g.s - 1 - 1 - 1, i := true, pc := word hi lo }
      { l with ir := .service k, adl := lo, adh := hi } :=
  (setLatches_tracks (fun l => { l with ir := .service k }) g l).bind ((getRegs_tracks g _).bind
    ((dummyRead_tracks g.pc u g _).bind ((dummyRead_tracks g.pc v g _).bind ((getLatches_tracks g _).bind
      (interruptEntry_tracks false k.vector lo hi g _)))))

/-- BRK. -/
theorem brk_tracks (u lo hi : Byte) (g : Regs) (l : Latches) :
    Tracks (do
      let g ← getRegs
      dummyRead g.pc
      incPc
      interruptEntry true irqVector) g l
      [rd g.pc u, wr (stackAddress g.s) (hi8 (g.pc + 1)), wr (stackAddress (g.s - 1)) (lo8 (g.pc + 1)),
        wr (stackAddress (g.s - 1 - 1)) (g.pByte true), rd irqVector lo, rd (irqVector + 1) hi]
      () { g with s := g.s - 1 - 1 - 1, i := true, pc := word hi lo } { l with adl := lo, adh := hi } :=
  (getRegs_tracks g l).bind ((dummyRead_tracks g.pc u g l).bind
    ((setRegs_tracks (fun g => { g with pc := g.pc + 1 }) g l).bind
      (interruptEntry_tracks true irqVector lo hi { g with pc := g.pc + 1 } l)))

/-- RTI. -/
theorem rti_tracks (u v p lo hi : Byte) (g : Regs) (l : Latches) :
    Tracks (do
      let g ← getRegs
      dummyRead g.pc
      interruptReturn) g l
      [rd g.pc u, rd (stackAddress g.s) v, rd (stackAddress (g.s + 1)) p, rd (stackAddress (g.s + 1 + 1)) lo,
        rd (stackAddress (g.s + 1 + 1 + 1)) hi]
      () { g.loadP p with s := g.s + 1 + 1 + 1, pc := word hi lo } l :=
  (getRegs_tracks g l).bind ((dummyRead_tracks g.pc u g l).bind (interruptReturn_tracks v p lo hi g l))

/-- JSR, from its third cycle on. -/
theorem jsrAbs_tracks (b1 v hi : Byte) (g : Regs) (l : Latches) :
    Tracks (do
      latchAdl b1
      let g ← getRegs
      dummyRead (stackAddress g.s)
      push (hi8 g.pc)
      push (lo8 g.pc)
      let adh ← readCycle g.pc
      latchAdh adh
      let l ← getLatches
      setPc (word l.adh l.adl)) g l
      [rd (stackAddress g.s) v, wr (stackAddress g.s) (hi8 g.pc), wr (stackAddress (g.s - 1)) (lo8 g.pc), rd g.pc hi]
      () { g with s := g.s - 1 - 1, pc := word hi b1 } { l with adl := b1, adh := hi } :=
  (setLatches_tracks (fun l => { l with adl := b1 }) g l).bind ((getRegs_tracks g _).bind
    ((dummyRead_tracks _ v g _).bind ((push_tracks (hi8 g.pc) g _).bind ((push_tracks (lo8 g.pc) _ _).bind
      ((readCycle_tracks g.pc hi _ _).bind ((setLatches_tracks (fun l => { l with adh := hi }) _ _).bind
        ((getLatches_tracks _ _).bind (setRegs_tracks (fun g => { g with pc := word hi b1 }) _ _))))))))

/-- RTS. -/
theorem rts_tracks (u v lo hi w : Byte) (g : Regs) (l : Latches) :
    Tracks (do
      let g ← getRegs
      dummyRead g.pc
      beginPull
      let pcl ← readStackInc
      setRegs (fun g => { g with pc := word (hi8 g.pc) pcl })
      let pch ← readStack
      setRegs (fun g => { g with pc := word pch (lo8 g.pc) })
      let g ← getRegs
      dummyRead g.pc
      incPc) g l
      [rd g.pc u, rd (stackAddress g.s) v, rd (stackAddress (g.s + 1)) lo, rd (stackAddress (g.s + 1 + 1)) hi,
        rd (word hi lo) w]
      () { g with s := g.s + 1 + 1, pc := word hi lo + 1 } l := by
  have h : Tracks (do
      let g ← getRegs
      dummyRead g.pc
      beginPull
      let pcl ← readStackInc
      setRegs (fun g => { g with pc := word (hi8 g.pc) pcl })
      let pch ← readStack
      setRegs (fun g => { g with pc := word pch (lo8 g.pc) })
      let g ← getRegs
      dummyRead g.pc
      incPc) g l
      [rd g.pc u, rd (stackAddress g.s) v, rd (stackAddress (g.s + 1)) lo, rd (stackAddress (g.s + 1 + 1)) hi,
        rd (word hi (lo8 (word (hi8 g.pc) lo))) w]
      () { g with s := g.s + 1 + 1, pc := word hi (lo8 (word (hi8 g.pc) lo)) + 1 } l := (getRegs_tracks g l).bind ((dummyRead_tracks g.pc u g l).bind ((beginPull_tracks v g l).bind
    ((readStackInc_tracks lo { g with s := g.s + 1 } l).bind
      ((setRegs_tracks (fun g => { g with pc := word (hi8 g.pc) lo }) { g with s := g.s + 1 + 1 } l).bind
        ((readStack_tracks hi { g with s := g.s + 1 + 1, pc := word (hi8 g.pc) lo } l).bind
          ((setRegs_tracks (fun g => { g with pc := word hi (lo8 g.pc) }) _ l).bind
            ((getRegs_tracks { g with s := g.s + 1 + 1, pc := word hi (lo8 (word (hi8 g.pc) lo)) } l).bind
              ((dummyRead_tracks _ w _ l).bind (setRegs_tracks (fun g => { g with pc := g.pc + 1 }) _ l)))))))))
  simpa only [lo8_word] using h

/-- JMP absolute: no cycle after its fetch. -/
theorem jmpAbs_tracks (b1 b2 : Byte) (g : Regs) (l : Latches) :
    Tracks (do
      latchAdl b1
      latchAdh b2
      let l ← getLatches
      setPc (word l.adh l.adl)) g l [] () { g with pc := word b2 b1 } { l with adl := b1, adh := b2 } :=
  .silent fun _ _ _ => rfl

/-- JMP indirect. -/
theorem jmpInd_tracks (b1 b2 lo hi : Byte) (g : Regs) (l : Latches) :
    Tracks (do
      let adl ← readCycle (word b2 b1)
      latchAdl adl
      let adh ← readCycle (word b2 (b1 + 1))
      latchAdh adh
      let l ← getLatches
      setPc (word l.adh l.adl)) g l
      [rd (word b2 b1) lo, rd (word b2 (b1 + 1)) hi] () { g with pc := word hi lo } { l with adl := lo, adh := hi } :=
  (readCycle_tracks _ lo g l).bind ((setLatches_tracks (fun l => { l with adl := lo }) g l).bind
    ((readCycle_tracks _ hi g _).bind ((setLatches_tracks (fun l => { l with adh := hi }) g _).bind
      ((getLatches_tracks g _).bind (setRegs_tracks (fun g => { g with pc := word hi lo }) g _)))))

/-- A push instruction. -/
theorem pushInstr_tracks (byte : Regs → Byte) (u : Byte) (g : Regs) (l : Latches) :
    Tracks (pushInstr byte) g l [rd g.pc u, wr (stackAddress g.s) (byte g)] () { g with s := g.s - 1 } l :=
  (getRegs_tracks g l).bind ((dummyRead_tracks g.pc u g l).bind (push_tracks (byte g) g l))

/-- A pull instruction. -/
theorem pullInstr_tracks (op : Byte → Regs → Regs) (u v w : Byte) (g : Regs) (l : Latches) :
    Tracks (pullInstr op) g l [rd g.pc u, rd (stackAddress g.s) v, rd (stackAddress (g.s + 1)) w] ()
      (op w { g with s := g.s + 1 }) l :=
  (getRegs_tracks g l).bind ((dummyRead_tracks g.pc u g l).bind ((beginPull_tracks v g l).bind
    ((readStack_tracks w { g with s := g.s + 1 } l).bind (setRegs_tracks (op w) _ l))))

/-- A branch that is not taken. -/
theorem branch_not_taken {taken : Regs → Bool} {g : Regs} (b1 : Byte) (l : Latches) (h : taken g = false) :
    Tracks (branch taken b1) g l [] () g l := by
  refine (getRegs_tracks g l).bind ?_
  rw [if_neg (by simp [h])]
  exact .pure () g l

/-- A branch taken to a target in the page of the next instruction. -/
theorem branch_taken {taken : Regs → Bool} {g : Regs} {b1 : Byte} (u : Byte) (l : Latches) (h : taken g = true)
    (hp : hi8 (g.pc + sext b1) = hi8 g.pc) :
    Tracks (branch taken b1) g l [rd g.pc u] () { g with pc := g.pc + sext b1 } { l with cross := false } := by
  refine (getRegs_tracks g l).bind ?_
  rw [if_pos h]
  simp only [hp, bne_self_eq_false]
  exact (dummyRead_tracks g.pc u g l).bind ((setLatches_tracks (fun l => { l with cross := false }) g l).bind
    ((getLatches_tracks g _).bind (setRegs_tracks (fun k => { k with pc := g.pc + sext b1 }) g _)))

/-- A branch taken to a target in another page. -/
theorem branch_crossing {taken : Regs → Bool} {g : Regs} {b1 : Byte} (u v : Byte) (l : Latches) (h : taken g = true)
    (hp : hi8 (g.pc + sext b1) ≠ hi8 g.pc) :
    Tracks (branch taken b1) g l [rd g.pc u, rd (word (hi8 g.pc) (lo8 (g.pc + sext b1))) v] ()
      { g with pc := g.pc + sext b1 } { l with cross := true } := by
  have hc : (hi8 (g.pc + sext b1) != hi8 g.pc) = true := by simpa using hp
  refine (getRegs_tracks g l).bind ?_
  rw [if_pos h]
  simp only [hc]
  exact (dummyRead_tracks g.pc u g l).bind ((setLatches_tracks (fun l => { l with cross := true }) g l).bind
    ((getLatches_tracks g _).bind ((dummyRead_tracks _ v g _).bind
      (setRegs_tracks (fun k => { k with pc := g.pc + sext b1 }) g _))))

end Sys2Proof.Machine
end

