-- ==== Sys2Proof/Laws/Step.lean ====
section
/-! SUPPORT. What an instruction's meaning, the fetch of its bytes and a step can do. -/

namespace Sys2Proof.Machine

/-! ### The opcode map -/

/-- What the cell of an opcode says about its instruction. -/
def CellAgrees (op : Byte) (c : OpcodeCell) : Prop :=
  match c with
  | .no => True
  | .op0 i => encode i = [op] ∧ fetchCycles i = 1
  | .op1 f => ∀ b1, encode (f b1) = [op, b1] ∧ fetchCycles (f b1) = 2
  | .op2 f => ∀ b1 b2, encode (f b1 b2) = [op, b1, b2] ∧ fetchCycles (f b1 b2) = 3
  | .op2late f => ∀ b1 b2, encode (f b1 b2) = [op, b1, b2] ∧ f = Instr.jsrAbs

/-- Every cell of the map agrees with the encoder. -/
theorem cellAgrees_row : ∀ hi < 16, ∀ lo < 16,
    CellAgrees (BitVec.ofNat 8 (hi * 16 + lo)) (opcodeCell (BitVec.ofNat 8 (hi * 16 + lo))) := by
  intro hi h lo l
  interval_cases hi <;> interval_cases lo <;>
    first
    | exact trivial
    | exact ⟨rfl, rfl⟩
    | exact fun _ => ⟨rfl, rfl⟩
    | exact fun _ _ => ⟨rfl, rfl⟩

theorem opcodeCell_agrees (op : Byte) : CellAgrees op (opcodeCell op) := by
  have h := cellAgrees_row (op.toNat / 16) (by have := op.isLt; omega) (op.toNat % 16) (by omega)
  rwa [Nat.div_add_mod', BitVec.ofNat_toNat, BitVec.setWidth_eq] at h

/-! ### The meanings -/

/-- An instruction takes from two to seven cycles, its fetch among them. -/
def CycleBounds (i : Instr) : Prop :=
  0 < fetchCycles i ∧ fetchCycles i ≤ baseCycles i ∧ 2 ≤ baseCycles i ∧ baseCycles i + maxExtraCycles i ≤ 7

/-- Each meaning is one sequence, and everything it can do: it makes a write only if `writesMemory` says so,
and with the cycles of its fetch it takes its base count and up to its extra cycles. -/
def ExecDoes (i : Instr) : Prop :=
  CycleBounds i ∧ ∃ m : M Unit, (∀ s, exec i s = runSeq m s) ∧
    Does (writesMemory i) (baseCycles i - fetchCycles i) (baseCycles i + maxExtraCycles i - fetchCycles i)
      (fun _ _ => True) m

theorem ExecDoes.of {i : Instr} {m : M Unit} {w : Bool} {lo hi : Nat} {R : Regs → Regs → Prop}
    (h : Does w lo hi R m) (hm : ∀ s, exec i s = runSeq m s) (hw : w = true → writesMemory i = true)
    (op : Byte) (hop : opcodeOf i = op) (f : Nat) (hf : fetchCycles i = f) (e : Bool) (he : isBranch i = e)
    (hlo : baseCyclesAt op - f ≤ lo)
    (hhi : hi ≤ baseCyclesAt op + (if e then 2 else if op ∈ pageCrossOpcodes then 1 else 0) - f)
    (hb : 0 < f ∧ f ≤ baseCyclesAt op ∧ 2 ≤ baseCyclesAt op ∧
      baseCyclesAt op + (if e then 2 else if op ∈ pageCrossOpcodes then 1 else 0) ≤ 7 := by decide) :
    ExecDoes i := by
  subst hop hf he
  exact ⟨hb, m, hm, h.weaken hw hlo hhi (fun _ _ _ => trivial)⟩

/-- What every instruction's meaning can do. -/
theorem exec_does (i : Instr) : ExecDoes i := by
  cases i with
  | ldaImm b1 =>
    exact .of (readImm_does b1 Regs.lda) (fun _ => rfl) id 0xA9 rfl 2 rfl false rfl (by decide) (by decide)
  | ldaZp b1 =>
    exact .of (readOperand_does Regs.lda (eaZp_does b1)) (fun _ => rfl) id 0xA5 rfl 2 rfl false rfl (by decide) (by decide)
  | ldaZpx b1 =>
    exact .of (readOperand_does Regs.lda (eaZpx_does b1)) (fun _ => rfl) id 0xB5 rfl 2 rfl false rfl (by decide) (by decide)
  | ldaAbs b1 b2 =>
    exact .of (readOperand_does Regs.lda (eaAbs_does b1 b2)) (fun _ => rfl) id 0xAD rfl 3 rfl false rfl (by decide) (by decide)
  | ldaAbsx b1 b2 =>
    exact .of (readOperand_does Regs.lda (eaAbsx_does .onCross b1 b2)) (fun _ => rfl) id 0xBD rfl 3 rfl false rfl (by decide) (by decide)
  | ldaAbsy b1 b2 =>
    exact .of (readOperand_does Regs.lda (eaAbsy_does .onCross b1 b2)) (fun _ => rfl) id 0xB9 rfl 3 rfl false rfl (by decide) (by decide)
  | ldaIzx b1 =>
    exact .of (readOperand_does Regs.lda (eaIzx_does b1)) (fun _ => rfl) id 0xA1 rfl 2 rfl false rfl (by decide) (by decide)
  | ldaIzy b1 =>
    exact .of (readOperand_does Regs.lda (eaIzy_does .onCross b1)) (fun _ => rfl) id 0xB1 rfl 2 rfl false rfl (by decide) (by decide)
  | ldxImm b1 =>
    exact .of (readImm_does b1 Regs.ldx) (fun _ => rfl) id 0xA2 rfl 2 rfl false rfl (by decide) (by decide)
  | ldxZp b1 =>
    exact .of (readOperand_does Regs.ldx (eaZp_does b1)) (fun _ => rfl) id 0xA6 rfl 2 rfl false rfl (by decide) (by decide)
  | ldxZpy b1 =>
    exact .of (readOperand_does Regs.ldx (eaZpy_does b1)) (fun _ => rfl) id 0xB6 rfl 2 rfl false rfl (by decide) (by decide)
  | ldxAbs b1 b2 =>
    exact .of (readOperand_does Regs.ldx (eaAbs_does b1 b2)) (fun _ => rfl) id 0xAE rfl 3 rfl false rfl (by decide) (by decide)
  | ldxAbsy b1 b2 =>
    exact .of (readOperand_does Regs.ldx (eaAbsy_does .onCross b1 b2)) (fun _ => rfl) id 0xBE rfl 3 rfl false rfl (by decide) (by decide)
  | ldyImm b1 =>
    exact .of (readImm_does b1 Regs.ldy) (fun _ => rfl) id 0xA0 rfl 2 rfl false rfl (by decide) (by decide)
  | ldyZp b1 =>
    exact .of (readOperand_does Regs.ldy (eaZp_does b1)) (fun _ => rfl) id 0xA4 rfl 2 rfl false rfl (by decide) (by decide)
  | ldyZpx b1 =>
    exact .of (readOperand_does Regs.ldy (eaZpx_does b1)) (fun _ => rfl) id 0xB4 rfl 2 rfl false rfl (by decide) (by decide)
  | ldyAbs b1 b2 =>
    exact .of (readOperand_does Regs.ldy (eaAbs_does b1 b2)) (fun _ => rfl) id 0xAC rfl 3 rfl false rfl (by decide) (by decide)
  | ldyAbsx b1 b2 =>
    exact .of (readOperand_does Regs.ldy (eaAbsx_does .onCross b1 b2)) (fun _ => rfl) id 0xBC rfl 3 rfl false rfl (by decide) (by decide)
  | staZp b1 =>
    exact .of (writeOperand_does Regs.a (eaZp_does b1)) (fun _ => rfl) id 0x85 rfl 2 rfl false rfl (by decide) (by decide)
  | staZpx b1 =>
    exact .of (writeOperand_does Regs.a (eaZpx_does b1)) (fun _ => rfl) id 0x95 rfl 2 rfl false rfl (by decide) (by decide)
  | staAbs b1 b2 =>
    exact .of (writeOperand_does Regs.a (eaAbs_does b1 b2)) (fun _ => rfl) id 0x8D rfl 3 rfl false rfl (by decide) (by decide)
  | staAbsx b1 b2 =>
    exact .of (writeOperand_does Regs.a (eaAbsx_does .always b1 b2)) (fun _ => rfl) id 0x9D rfl 3 rfl false rfl (by decide) (by decide)
  | staAbsy b1 b2 =>
    exact .of (writeOperand_does Regs.a (eaAbsy_does .always b1 b2)) (fun _ => rfl) id 0x99 rfl 3 rfl false rfl (by decide) (by decide)
  | staIzx b1 =>
    exact .of (writeOperand_does Regs.a (eaIzx_does b1)) (fun _ => rfl) id 0x81 rfl 2 rfl false rfl (by decide) (by decide)
  | staIzy b1 =>
    exact .of (writeOperand_does Regs.a (eaIzy_does .always b1)) (fun _ => rfl) id 0x91 rfl 2 rfl false rfl (by decide) (by decide)
  | stxZp b1 =>
    exact .of (writeOperand_does Regs.x (eaZp_does b1)) (fun _ => rfl) id 0x86 rfl 2 rfl false rfl (by decide) (by decide)
  | stxZpy b1 =>
    exact .of (writeOperand_does Regs.x (eaZpy_does b1)) (fun _ => rfl) id 0x96 rfl 2 rfl false rfl (by decide) (by decide)
  | stxAbs b1 b2 =>
    exact .of (writeOperand_does Regs.x (eaAbs_does b1 b2)) (fun _ => rfl) id 0x8E rfl 3 rfl false rfl (by decide) (by decide)
  | styZp b1 =>
    exact .of (writeOperand_does Regs.y (eaZp_does b1)) (fun _ => rfl) id 0x84 rfl 2 rfl false rfl (by decide) (by decide)
  | styZpx b1 =>
    exact .of (writeOperand_does Regs.y (eaZpx_does b1)) (fun _ => rfl) id 0x94 rfl 2 rfl false rfl (by decide) (by decide)
  | styAbs b1 b2 =>
    exact .of (writeOperand_does Regs.y (eaAbs_does b1 b2)) (fun _ => rfl) id 0x8C rfl 3 rfl false rfl (by decide) (by decide)
  | tax =>
    exact .of (implied_does Regs.tax) (fun _ => rfl) id 0xAA rfl 1 rfl false rfl (by decide) (by decide)
  | tay =>
    exact .of (implied_does Regs.tay) (fun _ => rfl) id 0xA8 rfl 1 rfl false rfl (by decide) (by decide)
  | tsx =>
    exact .of (implied_does Regs.tsx) (fun _ => rfl) id 0xBA rfl 1 rfl false rfl (by decide) (by decide)
  | txa =>
    exact .of (implied_does Regs.txa) (fun _ => rfl) id 0x8A rfl 1 rfl false rfl (by decide) (by decide)
  | txs =>
    exact .of (implied_does Regs.txs) (fun _ => rfl) id 0x9A rfl 1 rfl false rfl (by decide) (by decide)
  | tya =>
    exact .of (implied_does Regs.tya) (fun _ => rfl) id 0x98 rfl 1 rfl false rfl (by decide) (by decide)
  | adcImm b1 =>
    exact .of (readImm_does b1 Regs.adc) (fun _ => rfl) id 0x69 rfl 2 rfl false rfl (by decide) (by decide)
  | adcZp b1 =>
    exact .of (readOperand_does Regs.adc (eaZp_does b1)) (fun _ => rfl) id 0x65 rfl 2 rfl false rfl (by decide) (by decide)
  | adcZpx b1 =>
    exact .of (readOperand_does Regs.adc (eaZpx_does b1)) (fun _ => rfl) id 0x75 rfl 2 rfl false rfl (by decide) (by decide)
  | adcAbs b1 b2 =>
    exact .of (readOperand_does Regs.adc (eaAbs_does b1 b2)) (fun _ => rfl) id 0x6D rfl 3 rfl false rfl (by decide) (by decide)
  | adcAbsx b1 b2 =>
    exact .of (readOperand_does Regs.adc (eaAbsx_does .onCross b1 b2)) (fun _ => rfl) id 0x7D rfl 3 rfl false rfl (by decide) (by decide)
  | adcAbsy b1 b2 =>
    exact .of (readOperand_does Regs.adc (eaAbsy_does .onCross b1 b2)) (fun _ => rfl) id 0x79 rfl 3 rfl false rfl (by decide) (by decide)
  | adcIzx b1 =>
    exact .of (readOperand_does Regs.adc (eaIzx_does b1)) (fun _ => rfl) id 0x61 rfl 2 rfl false rfl (by decide) (by decide)
  | adcIzy b1 =>
    exact .of (readOperand_does Regs.adc (eaIzy_does .onCross b1)) (fun _ => rfl) id 0x71 rfl 2 rfl false rfl (by decide) (by decide)
  | sbcImm b1 =>
    exact .of (readImm_does b1 Regs.sbc) (fun _ => rfl) id 0xE9 rfl 2 rfl false rfl (by decide) (by decide)
  | sbcZp b1 =>
    exact .of (readOperand_does Regs.sbc (eaZp_does b1)) (fun _ => rfl) id 0xE5 rfl 2 rfl false rfl (by decide) (by decide)
  | sbcZpx b1 =>
    exact .of (readOperand_does Regs.sbc (eaZpx_does b1)) (fun _ => rfl) id 0xF5 rfl 2 rfl false rfl (by decide) (by decide)
  | sbcAbs b1 b2 =>
    exact .of (readOperand_does Regs.sbc (eaAbs_does b1 b2)) (fun _ => rfl) id 0xED rfl 3 rfl false rfl (by decide) (by decide)
  | sbcAbsx b1 b2 =>
    exact .of (readOperand_does Regs.sbc (eaAbsx_does .onCross b1 b2)) (fun _ => rfl) id 0xFD rfl 3 rfl false rfl (by decide) (by decide)
  | sbcAbsy b1 b2 =>
    exact .of (readOperand_does Regs.sbc (eaAbsy_does .onCross b1 b2)) (fun _ => rfl) id 0xF9 rfl 3 rfl false rfl (by decide) (by decide)
  | sbcIzx b1 =>
    exact .of (readOperand_does Regs.sbc (eaIzx_does b1)) (fun _ => rfl) id 0xE1 rfl 2 rfl false rfl (by decide) (by decide)
  | sbcIzy b1 =>
    exact .of (readOperand_does Regs.sbc (eaIzy_does .onCross b1)) (fun _ => rfl) id 0xF1 rfl 2 rfl false rfl (by decide) (by decide)
  | cmpImm b1 =>
    exact .of (readImm_does b1 Regs.cmp) (fun _ => rfl) id 0xC9 rfl 2 rfl false rfl (by decide) (by decide)
  | cmpZp b1 =>
    exact .of (readOperand_does Regs.cmp (eaZp_does b1)) (fun _ => rfl) id 0xC5 rfl 2 rfl false rfl (by decide) (by decide)
  | cmpZpx b1 =>
    exact .of (readOperand_does Regs.cmp (eaZpx_does b1)) (fun _ => rfl) id 0xD5 rfl 2 rfl false rfl (by decide) (by decide)
  | cmpAbs b1 b2 =>
    exact .of (readOperand_does Regs.cmp (eaAbs_does b1 b2)) (fun _ => rfl) id 0xCD rfl 3 rfl false rfl (by decide) (by decide)
  | cmpAbsx b1 b2 =>
    exact .of (readOperand_does Regs.cmp (eaAbsx_does .onCross b1 b2)) (fun _ => rfl) id 0xDD rfl 3 rfl false rfl (by decide) (by decide)
  | cmpAbsy b1 b2 =>
    exact .of (readOperand_does Regs.cmp (eaAbsy_does .onCross b1 b2)) (fun _ => rfl) id 0xD9 rfl 3 rfl false rfl (by decide) (by decide)
  | cmpIzx b1 =>
    exact .of (readOperand_does Regs.cmp (eaIzx_does b1)) (fun _ => rfl) id 0xC1 rfl 2 rfl false rfl (by decide) (by decide)
  | cmpIzy b1 =>
    exact .of (readOperand_does Regs.cmp (eaIzy_does .onCross b1)) (fun _ => rfl) id 0xD1 rfl 2 rfl false rfl (by decide) (by decide)
  | cpxImm b1 =>
    exact .of (readImm_does b1 Regs.cpx) (fun _ => rfl) id 0xE0 rfl 2 rfl false rfl (by decide) (by decide)
  | cpxZp b1 =>
    exact .of (readOperand_does Regs.cpx (eaZp_does b1)) (fun _ => rfl) id 0xE4 rfl 2 rfl false rfl (by decide) (by decide)
  | cpxAbs b1 b2 =>
    exact .of (readOperand_does Regs.cpx (eaAbs_does b1 b2)) (fun _ => rfl) id 0xEC rfl 3 rfl false rfl (by decide) (by decide)
  | cpyImm b1 =>
    exact .of (readImm_does b1 Regs.cpy) (fun _ => rfl) id 0xC0 rfl 2 rfl false rfl (by decide) (by decide)
  | cpyZp b1 =>
    exact .of (readOperand_does Regs.cpy (eaZp_does b1)) (fun _ => rfl) id 0xC4 rfl 2 rfl false rfl (by decide) (by decide)
  | cpyAbs b1 b2 =>
    exact .of (readOperand_does Regs.cpy (eaAbs_does b1 b2)) (fun _ => rfl) id 0xCC rfl 3 rfl false rfl (by decide) (by decide)
  | incZp b1 =>
    exact .of (modifyOperand_does incByte (eaZp_does b1)) (fun _ => rfl) id 0xE6 rfl 2 rfl false rfl (by decide) (by decide)
  | incZpx b1 =>
    exact .of (modifyOperand_does incByte (eaZpx_does b1)) (fun _ => rfl) id 0xF6 rfl 2 rfl false rfl (by decide) (by decide)
  | incAbs b1 b2 =>
    exact .of (modifyOperand_does incByte (eaAbs_does b1 b2)) (fun _ => rfl) id 0xEE rfl 3 rfl false rfl (by decide) (by decide)
  | incAbsx b1 b2 =>
    exact .of (modifyOperand_does incByte (eaAbsx_does .always b1 b2)) (fun _ => rfl) id 0xFE rfl 3 rfl false rfl (by decide) (by decide)
  | decZp b1 =>
    exact .of (modifyOperand_does decByte (eaZp_does b1)) (fun _ => rfl) id 0xC6 rfl 2 rfl false rfl (by decide) (by decide)
  | decZpx b1 =>
    exact .of (modifyOperand_does decByte (eaZpx_does b1)) (fun _ => rfl) id 0xD6 rfl 2 rfl false rfl (by decide) (by decide)
  | decAbs b1 b2 =>
    exact .of (modifyOperand_does decByte (eaAbs_does b1 b2)) (fun _ => rfl) id 0xCE rfl 3 rfl false rfl (by decide) (by decide)
  | decAbsx b1 b2 =>
    exact .of (modifyOperand_does decByte (eaAbsx_does .always b1 b2)) (fun _ => rfl) id 0xDE rfl 3 rfl false rfl (by decide) (by decide)
  | inx =>
    exact .of (implied_does Regs.inx) (fun _ => rfl) id 0xE8 rfl 1 rfl false rfl (by decide) (by decide)
  | iny =>
    exact .of (implied_does Regs.iny) (fun _ => rfl) id 0xC8 rfl 1 rfl false rfl (by decide) (by decide)
  | dex =>
    exact .of (implied_does Regs.dex) (fun _ => rfl) id 0xCA rfl 1 rfl false rfl (by decide) (by decide)
  | dey =>
    exact .of (implied_does Regs.dey) (fun _ => rfl) id 0x88 rfl 1 rfl false rfl (by decide) (by decide)
  | andImm b1 =>
    exact .of (readImm_does b1 Regs.and) (fun _ => rfl) id 0x29 rfl 2 rfl false rfl (by decide) (by decide)
  | andZp b1 =>
    exact .of (readOperand_does Regs.and (eaZp_does b1)) (fun _ => rfl) id 0x25 rfl 2 rfl false rfl (by decide) (by decide)
  | andZpx b1 =>
    exact .of (readOperand_does Regs.and (eaZpx_does b1)) (fun _ => rfl) id 0x35 rfl 2 rfl false rfl (by decide) (by decide)
  | andAbs b1 b2 =>
    exact .of (readOperand_does Regs.and (eaAbs_does b1 b2)) (fun _ => rfl) id 0x2D rfl 3 rfl false rfl (by decide) (by decide)
  | andAbsx b1 b2 =>
    exact .of (readOperand_does Regs.and (eaAbsx_does .onCross b1 b2)) (fun _ => rfl) id 0x3D rfl 3 rfl false rfl (by decide) (by decide)
  | andAbsy b1 b2 =>
    exact .of (readOperand_does Regs.and (eaAbsy_does .onCross b1 b2)) (fun _ => rfl) id 0x39 rfl 3 rfl false rfl (by decide) (by decide)
  | andIzx b1 =>
    exact .of (readOperand_does Regs.and (eaIzx_does b1)) (fun _ => rfl) id 0x21 rfl 2 rfl false rfl (by decide) (by decide)
  | andIzy b1 =>
    exact .of (readOperand_does Regs.and (eaIzy_does .onCross b1)) (fun _ => rfl) id 0x31 rfl 2 rfl false rfl (by decide) (by decide)
  | oraImm b1 =>
    exact .of (readImm_does b1 Regs.ora) (fun _ => rfl) id 0x09 rfl 2 rfl false rfl (by decide) (by decide)
  | oraZp b1 =>
    exact .of (readOperand_does Regs.ora (eaZp_does b1)) (fun _ => rfl) id 0x05 rfl 2 rfl false rfl (by decide) (by decide)
  | oraZpx b1 =>
    exact .of (readOperand_does Regs.ora (eaZpx_does b1)) (fun _ => rfl) id 0x15 rfl 2 rfl false rfl (by decide) (by decide)
  | oraAbs b1 b2 =>
    exact .of (readOperand_does Regs.ora (eaAbs_does b1 b2)) (fun _ => rfl) id 0x0D rfl 3 rfl false rfl (by decide) (by decide)
  | oraAbsx b1 b2 =>
    exact .of (readOperand_does Regs.ora (eaAbsx_does .onCross b1 b2)) (fun _ => rfl) id 0x1D rfl 3 rfl false rfl (by decide) (by decide)
  | oraAbsy b1 b2 =>
    exact .of (readOperand_does Regs.ora (eaAbsy_does .onCross b1 b2)) (fun _ => rfl) id 0x19 rfl 3 rfl false rfl (by decide) (by decide)
  | oraIzx b1 =>
    exact .of (readOperand_does Regs.ora (eaIzx_does b1)) (fun _ => rfl) id 0x01 rfl 2 rfl false rfl (by decide) (by decide)
  | oraIzy b1 =>
    exact .of (readOperand_does Regs.ora (eaIzy_does .onCross b1)) (fun _ => rfl) id 0x11 rfl 2 rfl false rfl (by decide) (by decide)
  | eorImm b1 =>
    exact .of (readImm_does b1 Regs.eor) (fun _ => rfl) id 0x49 rfl 2 rfl false rfl (by decide) (by decide)
  | eorZp b1 =>
    exact .of (readOperand_does Regs.eor (eaZp_does b1)) (fun _ => rfl) id 0x45 rfl 2 rfl false rfl (by decide) (by decide)
  | eorZpx b1 =>
    exact .of (readOperand_does Regs.eor (eaZpx_does b1)) (fun _ => rfl) id 0x55 rfl 2 rfl false rfl (by decide) (by decide)
  | eorAbs b1 b2 =>
    exact .of (readOperand_does Regs.eor (eaAbs_does b1 b2)) (fun _ => rfl) id 0x4D rfl 3 rfl false rfl (by decide) (by decide)
  | eorAbsx b1 b2 =>
    exact .of (readOperand_does Regs.eor (eaAbsx_does .onCross b1 b2)) (fun _ => rfl) id 0x5D rfl 3 rfl false rfl (by decide) (by decide)
  | eorAbsy b1 b2 =>
    exact .of (readOperand_does Regs.eor (eaAbsy_does .onCross b1 b2)) (fun _ => rfl) id 0x59 rfl 3 rfl false rfl (by decide) (by decide)
  | eorIzx b1 =>
    exact .of (readOperand_does Regs.eor (eaIzx_does b1)) (fun _ => rfl) id 0x41 rfl 2 rfl false rfl (by decide) (by decide)
  | eorIzy b1 =>
    exact .of (readOperand_does Regs.eor (eaIzy_does .onCross b1)) (fun _ => rfl) id 0x51 rfl 2 rfl false rfl (by decide) (by decide)
  | bitZp b1 =>
    exact .of (readOperand_does Regs.bitTest (eaZp_does b1)) (fun _ => rfl) id 0x24 rfl 2 rfl false rfl (by decide) (by decide)
  | bitAbs b1 b2 =>
    exact .of (readOperand_does Regs.bitTest (eaAbs_does b1 b2)) (fun _ => rfl) id 0x2C rfl 3 rfl false rfl (by decide) (by decide)
  | aslAcc =>
    exact .of (accumulator_does aslByte) (fun _ => rfl) id 0x0A rfl 1 rfl false rfl (by decide) (by decide)
  | aslZp b1 =>
    exact .of (modifyOperand_does aslByte (eaZp_does b1)) (fun _ => rfl) id 0x06 rfl 2 rfl false rfl (by decide) (by decide)
  | aslZpx b1 =>
    exact .of (modifyOperand_does aslByte (eaZpx_does b1)) (fun _ => rfl) id 0x16 rfl 2 rfl false rfl (by decide) (by decide)
  | aslAbs b1 b2 =>
    exact .of (modifyOperand_does aslByte (eaAbs_does b1 b2)) (fun _ => rfl) id 0x0E rfl 3 rfl false rfl (by decide) (by decide)
  | aslAbsx b1 b2 =>
    exact .of (modifyOperand_does aslByte (eaAbsx_does .always b1 b2)) (fun _ => rfl) id 0x1E rfl 3 rfl false rfl (by decide) (by decide)
  | lsrAcc =>
    exact .of (accumulator_does lsrByte) (fun _ => rfl) id 0x4A rfl 1 rfl false rfl (by decide) (by decide)
  | lsrZp b1 =>
    exact .of (modifyOperand_does lsrByte (eaZp_does b1)) (fun _ => rfl) id 0x46 rfl 2 rfl false rfl (by decide) (by decide)
  | lsrZpx b1 =>
    exact .of (modifyOperand_does lsrByte (eaZpx_does b1)) (fun _ => rfl) id 0x56 rfl 2 rfl false rfl (by decide) (by decide)
  | lsrAbs b1 b2 =>
    exact .of (modifyOperand_does lsrByte (eaAbs_does b1 b2)) (fun _ => rfl) id 0x4E rfl 3 rfl false rfl (by decide) (by decide)
  | lsrAbsx b1 b2 =>
    exact .of (modifyOperand_does lsrByte (eaAbsx_does .always b1 b2)) (fun _ => rfl) id 0x5E rfl 3 rfl false rfl (by decide) (by decide)
  | rolAcc =>
    exact .of (accumulator_does rolByte) (fun _ => rfl) id 0x2A rfl 1 rfl false rfl (by decide) (by decide)
  | rolZp b1 =>
    exact .of (modifyOperand_does rolByte (eaZp_does b1)) (fun _ => rfl) id 0x26 rfl 2 rfl false rfl (by decide) (by decide)
  | rolZpx b1 =>
    exact .of (modifyOperand_does rolByte (eaZpx_does b1)) (fun _ => rfl) id 0x36 rfl 2 rfl false rfl (by decide) (by decide)
  | rolAbs b1 b2 =>
    exact .of (modifyOperand_does rolByte (eaAbs_does b1 b2)) (fun _ => rfl) id 0x2E rfl 3 rfl false rfl (by decide) (by decide)
  | rolAbsx b1 b2 =>
    exact .of (modifyOperand_does rolByte (eaAbsx_does .always b1 b2)) (fun _ => rfl) id 0x3E rfl 3 rfl false rfl (by decide) (by decide)
  | rorAcc =>
    exact .of (accumulator_does rorByte) (fun _ => rfl) id 0x6A rfl 1 rfl false rfl (by decide) (by decide)
  | rorZp b1 =>
    exact .of (modifyOperand_does rorByte (eaZp_does b1)) (fun _ => rfl) id 0x66 rfl 2 rfl false rfl (by decide) (by decide)
  | rorZpx b1 =>
    exact .of (modifyOperand_does rorByte (eaZpx_does b1)) (fun _ => rfl) id 0x76 rfl 2 rfl false rfl (by decide) (by decide)
  | rorAbs b1 b2 =>
    exact .of (modifyOperand_does rorByte (eaAbs_does b1 b2)) (fun _ => rfl) id 0x6E rfl 3 rfl false rfl (by decide) (by decide)
  | rorAbsx b1 b2 =>
    exact .of (modifyOperand_does rorByte (eaAbsx_does .always b1 b2)) (fun _ => rfl) id 0x7E rfl 3 rfl false rfl (by decide) (by decide)
  | bplRel b1 =>
    exact .of (branch_does Regs.bpl b1) (fun _ => rfl) id 0x10 rfl 2 rfl true rfl (by decide) (by decide)
  | bmiRel b1 =>
    exact .of (branch_does Regs.bmi b1) (fun _ => rfl) id 0x30 rfl 2 rfl true rfl (by decide) (by decide)
  | bvcRel b1 =>
    exact .of (branch_does Regs.bvc b1) (fun _ => rfl) id 0x50 rfl 2 rfl true rfl (by decide) (by decide)
  | bvsRel b1 =>
    exact .of (branch_does Regs.bvs b1) (fun _ => rfl) id 0x70 rfl 2 rfl true rfl (by decide) (by decide)
  | bccRel b1 =>
    exact .of (branch_does Regs.bcc b1) (fun _ => rfl) id 0x90 rfl 2 rfl true rfl (by decide) (by decide)
  | bcsRel b1 =>
    exact .of (branch_does Regs.bcs b1) (fun _ => rfl) id 0xB0 rfl 2 rfl true rfl (by decide) (by decide)
  | bneRel b1 =>
    exact .of (branch_does Regs.bne b1) (fun _ => rfl) id 0xD0 rfl 2 rfl true rfl (by decide) (by decide)
  | beqRel b1 =>
    exact .of (branch_does Regs.beq b1) (fun _ => rfl) id 0xF0 rfl 2 rfl true rfl (by decide) (by decide)
  | jmpAbs b1 b2 =>
    exact .of (jmpAbs_does b1 b2) (fun _ => rfl) id 0x4C rfl 3 rfl false rfl (by decide) (by decide)
  | jmpInd b1 b2 =>
    exact .of (jmpInd_does b1 b2) (fun _ => rfl) id 0x6C rfl 3 rfl false rfl (by decide) (by decide)
  | jsrAbs b1 b2 =>
    exact .of (jsrAbs_does b1) (fun _ => rfl) id 0x20 rfl 2 rfl false rfl (by decide) (by decide)
  | rts =>
    exact .of (rts_does) (fun _ => rfl) id 0x60 rfl 1 rfl false rfl (by decide) (by decide)
  | brk =>
    exact .of (brk_does) (fun _ => rfl) id 0x00 rfl 1 rfl false rfl (by decide) (by decide)
  | rti =>
    exact .of (rti_does) (fun _ => rfl) id 0x40 rfl 1 rfl false rfl (by decide) (by decide)
  | pha =>
    exact .of (pushInstr_does Regs.a) (fun _ => rfl) id 0x48 rfl 1 rfl false rfl (by decide) (by decide)
  | php =>
    exact .of (pushInstr_does (fun g => g.pByte true)) (fun _ => rfl) id 0x08 rfl 1 rfl false rfl (by decide) (by decide)
  | pla =>
    exact .of (pullInstr_does (fun v g => { g.nz v with a := v })) (fun _ => rfl) id 0x68 rfl 1 rfl false rfl (by decide) (by decide)
  | plp =>
    exact .of (pullInstr_does (fun v g => g.loadP v)) (fun _ => rfl) id 0x28 rfl 1 rfl false rfl (by decide) (by decide)
  | clc =>
    exact .of (implied_does Regs.clc) (fun _ => rfl) id 0x18 rfl 1 rfl false rfl (by decide) (by decide)
  | sec =>
    exact .of (implied_does Regs.sec) (fun _ => rfl) id 0x38 rfl 1 rfl false rfl (by decide) (by decide)
  | cld =>
    exact .of (implied_does Regs.cld) (fun _ => rfl) id 0xD8 rfl 1 rfl false rfl (by decide) (by decide)
  | sed =>
    exact .of (implied_does Regs.sed) (fun _ => rfl) id 0xF8 rfl 1 rfl false rfl (by decide) (by decide)
  | cli =>
    exact .of (implied_does Regs.cli) (fun _ => rfl) id 0x58 rfl 1 rfl false rfl (by decide) (by decide)
  | sei =>
    exact .of (implied_does Regs.sei) (fun _ => rfl) id 0x78 rfl 1 rfl false rfl (by decide) (by decide)
  | clv =>
    exact .of (implied_does Regs.clv) (fun _ => rfl) id 0xB8 rfl 1 rfl false rfl (by decide) (by decide)
  | nop =>
    exact .of (implied_does id) (fun _ => rfl) id 0xEA rfl 1 rfl false rfl (by decide) (by decide)

/-! ### Fetching -/

theorem fetchOperand_went {b b' : Bus} {v : Byte} {g : Regs} (r : Run) (cs l) (h : b.read g.pc = some (v, b')) :
    fetchOperand (r.went cs b g l) =
      .ok v (r.went (cs ++ [rd g.pc v]) b'.tick { g with pc := g.pc + 1 } l) := by
  unfold fetchOperand
  rw [M.bind_ok (getRegs_went r cs b g l), M.bind_ok (readCycle_went r cs g l h), M.bind_ok (incPc_went r _ _ g l)]
  rfl

theorem fetchOperand_fault {b : Bus} {g : Regs} (r : Run) (cs l) (h : b.read g.pc = none) :
    fetchOperand (r.went cs b g l) = .error (.unmappedAccess g.pc .read) (r.went cs b g l).clock := by
  unfold fetchOperand
  rw [M.bind_ok (getRegs_went r cs b g l)]
  exact M.bind_error (readCycle_fault r cs g l h)

/-- The fetch up to the decoder: the opcode is read, the devices have not ticked yet. -/
theorem fetchInstr_opcode {op : Byte} {b : Bus} (r : Run) (h : r.m.bus.read r.m.regs.pc = some (op, b)) :
    fetchInstr r =
      (match opcodeCell op with
        | .no => do
          raiseUnimplemented op r.m.regs.pc
          tickDevices
          return .unimplemented op r.m.regs.pc
        | .op0 i => do
          tickDevices
          return .instr i
        | .op1 f => do
          tickDevices
          let b1 ← fetchOperand
          return .instr (f b1)
        | .op2 f => do
          tickDevices
          let b1 ← fetchOperand
          let b2 ← fetchOperand
          return .instr (f b1 b2)
        | .op2late f => do
          tickDevices
          let b1 ← fetchOperand
          let h ← getRegs
          let b2 ← glanceAt h.pc
          return .instr (f b1 b2) : M Fetched)
      (r.went [rd r.m.regs.pc op] b { r.m.regs with pc := r.m.regs.pc + 1 } { r.q.latch with ir := .opcode op }) := by
  conv_lhs => rw [← Run.went_nil r]
  unfold fetchInstr
  rw [M.bind_ok (getRegs_went r [] _ _ _), M.bind_ok (readAccess_went r [] _ _ h),
    M.bind_ok (latchIr_went _ r _ _ _ _), M.bind_ok (incPc_went r _ _ _ _)]
  rfl

/-- What the opcode fetch answers at an unmapped PC. -/
theorem fetchInstr_unmapped (r : Run) (h : r.m.bus.read r.m.regs.pc = none) :
    fetchInstr r = .error (.unmappedAccess r.m.regs.pc .read) r.clock := by
  conv_lhs => rw [← Run.went_nil r]
  unfold fetchInstr
  rw [M.bind_ok (getRegs_went r [] _ _ _), M.bind_error (readAccess_fault r [] _ _ h), Run.went_nil]

/-- Everything a fetch can do: it has an instruction, with its bytes read at consecutive addresses from PC on
and PC past them; or an unimplemented opcode to run as a no-op; or it stops at an unimplemented opcode,
before the devices tick; or at an unmapped address. -/
inductive FetchEnds (r : Run) : Prop where
  | instr (i : Instr) (bytes : List Byte) (b : Bus) (hlen : bytes.length = fetchCycles i)
      (hbytes : bytes = (encode i).take (fetchCycles i))
      (hreplay : r.m.bus.replay (fetchReads r.m.regs.pc bytes) = some b)
      (hrun : fetchInstr r = .ok (.instr i) (r.went (fetchReads r.m.regs.pc bytes) b
        { r.m.regs with pc := r.m.regs.pc + BitVec.ofNat 16 bytes.length }
        { r.q.latch with ir := .opcode (opcodeOf i) }))
  | substituted (op : Byte) (b : Bus) (hcell : opcodeCell op = .no) (hpolicy : r.m.params.policy = .substituteNop)
      (hreplay : r.m.bus.replay [rd r.m.regs.pc op] = some b)
      (hrun : fetchInstr r = .ok (.unimplemented op r.m.regs.pc) (r.went [rd r.m.regs.pc op] b
        { r.m.regs with pc := r.m.regs.pc + 1 } { r.q.latch with ir := .opcode op }))
  | unimplemented (op : Byte) (b : Bus) (hcell : opcodeCell op = .no) (hpolicy : r.m.params.policy = .halt)
      (hread : r.m.bus.read r.m.regs.pc = some (op, b))
      (hrun : fetchInstr r = .error (.unimplementedOpcode op r.m.regs.pc) (r.went [rd r.m.regs.pc op] b
        { r.m.regs with pc := r.m.regs.pc + 1 } { r.q.latch with ir := .opcode op }))
  | unmapped (bytes : List Byte) (b : Bus) (g : Regs) (l : Latches) (a : Word) (hlen : bytes.length < 3)
      (hreplay : r.m.bus.replay (fetchReads r.m.regs.pc bytes) = some b) (hmap : b.mapped a = false)
      (hrun : fetchInstr r = .error (.unmappedAccess a .read)
        (r.went (fetchReads r.m.regs.pc bytes) b g l).clock)

theorem fetchReads_one (pc : Word) (v : Byte) : fetchReads pc [v] = [rd pc v] := rfl

theorem fetchReads_two (pc : Word) (v u : Byte) : fetchReads pc [v, u] = [rd pc v] ++ [rd (pc + 1) u] := rfl

theorem fetchReads_three (pc : Word) (v u w : Byte) :
    fetchReads pc [v, u, w] = ([rd pc v] ++ [rd (pc + 1) u]) ++ [rd (pc + 1 + 1) w] := rfl

theorem fetchInstr_ends (r : Run) : FetchEnds r := by
  cases h : r.m.bus.read r.m.regs.pc with
  | none =>
    refine .unmapped [] r.m.bus r.m.regs r.q.latch r.m.regs.pc (by decide) (by simp [fetchReads])
      ((Bus.read_none_iff _ _).mp h) ?_
    rw [fetchInstr_unmapped r h]
    simp only [fetchReads, Run.went_nil]
  | some p =>
    obtain ⟨op, b⟩ := p
    have ht := fetchInstr_opcode r h
    have hcell := opcodeCell_agrees op
    have hr₁ : r.m.bus.replay (fetchReads r.m.regs.pc [op]) = some b.tick := by
      rw [fetchReads_one, Bus.replay_rd]
      exact ⟨b, h, by simp⟩
    cases hc : opcodeCell op with
    | no =>
      rw [hc] at ht
      simp only at ht
      cases hp : r.m.params.policy with
      | halt =>
        refine .unimplemented op b hc hp h ?_
        rw [ht]
        refine M.bind_error ?_
        simp [raiseUnimplemented, hp]
      | substituteNop =>
        refine .substituted op b.tick hc hp hr₁ ?_
        rw [ht]
        refine (M.bind_ok (r' := r.went [rd r.m.regs.pc op] b { r.m.regs with pc := r.m.regs.pc + 1 }
          { r.q.latch with ir := .opcode op }) (v := ()) ?_).trans ?_
        · simp [raiseUnimplemented, hp]
        · rw [M.bind_ok (tickDevices_went r _ _ _ _)]
          rfl
    | op0 i =>
      rw [hc] at ht hcell
      obtain ⟨he, hf⟩ := hcell
      have ho : opcodeOf i = op := by rw [opcodeOf, he]; rfl
      refine .instr i [op] b.tick (by rw [hf]; rfl) (by rw [he, hf]; rfl) hr₁ ?_
      rw [ht, ho]
      simp only
      rw [M.bind_ok (tickDevices_went r _ _ _ _)]
      rfl
    | op1 f =>
      rw [hc] at ht hcell
      simp only at ht
      rw [M.bind_ok (tickDevices_went r _ _ _ _)] at ht
      cases h₁ : b.tick.read (r.m.regs.pc + 1) with
      | none =>
        rw [M.bind_error (fetchOperand_fault (g := { r.m.regs with pc := r.m.regs.pc + 1 }) r _ _ h₁)] at ht
        exact .unmapped [op] b.tick _ _ (r.m.regs.pc + 1) (by simp) hr₁ ((Bus.read_none_iff _ _).mp h₁) ht
      | some q =>
        obtain ⟨b1, b₁⟩ := q
        rw [M.bind_ok (fetchOperand_went (g := { r.m.regs with pc := r.m.regs.pc + 1 }) r _ _ h₁)] at ht
        obtain ⟨he, hf⟩ := hcell b1
        have ho : opcodeOf (f b1) = op := by rw [opcodeOf, he]; rfl
        refine .instr (f b1) [op, b1] b₁.tick (by rw [hf]; rfl) (by rw [he, hf]; rfl) ?_ ?_
        · rw [fetchReads_two]
          exact Bus.replay_snoc_rd hr₁ h₁
        · rw [ht, ho, BitVec.add_assoc]
          rfl
    | op2 f =>
      rw [hc] at ht hcell
      simp only at ht
      rw [M.bind_ok (tickDevices_went r _ _ _ _)] at ht
      cases h₁ : b.tick.read (r.m.regs.pc + 1) with
      | none =>
        rw [M.bind_error (fetchOperand_fault (g := { r.m.regs with pc := r.m.regs.pc + 1 }) r _ _ h₁)] at ht
        exact .unmapped [op] b.tick _ _ (r.m.regs.pc + 1) (by simp) hr₁ ((Bus.read_none_iff _ _).mp h₁) ht
      | some q =>
        obtain ⟨b1, b₁⟩ := q
        rw [M.bind_ok (fetchOperand_went (g := { r.m.regs with pc := r.m.regs.pc + 1 }) r _ _ h₁)] at ht
        have hr₂ : r.m.bus.replay (fetchReads r.m.regs.pc [op, b1]) = some b₁.tick := by
          rw [fetchReads_two]
          exact Bus.replay_snoc_rd hr₁ h₁
        cases h₂ : b₁.tick.read (r.m.regs.pc + 1 + 1) with
        | none =>
          rw [M.bind_error (fetchOperand_fault (g := { r.m.regs with pc := r.m.regs.pc + 1 + 1 }) r _ _ h₂)] at ht
          exact .unmapped [op, b1] b₁.tick _ _ (r.m.regs.pc + 1 + 1) (by simp) hr₂
            ((Bus.read_none_iff _ _).mp h₂) ht
        | some q =>
          obtain ⟨b2, b₂⟩ := q
          rw [M.bind_ok (fetchOperand_went (g := { r.m.regs with pc := r.m.regs.pc + 1 + 1 }) r _ _ h₂)] at ht
          obtain ⟨he, hf⟩ := hcell b1 b2
          have ho : opcodeOf (f b1 b2) = op := by rw [opcodeOf, he]; rfl
          refine .instr (f b1 b2) [op, b1, b2] b₂.tick (by rw [hf]; rfl) (by rw [he, hf]; rfl) ?_ ?_
          · rw [fetchReads_three]
            exact Bus.replay_snoc_rd hr₂ h₂
          · have e : r.m.regs.pc + BitVec.ofNat 16 [op, b1, b2].length = r.m.regs.pc + 1 + 1 + 1 := by
              rw [BitVec.add_assoc, BitVec.add_assoc]
              rfl
            rw [ht, ho, e]
            rfl
    | op2late f =>
      rw [hc] at ht hcell
      simp only at ht
      rw [M.bind_ok (tickDevices_went r _ _ _ _)] at ht
      cases h₁ : b.tick.read (r.m.regs.pc + 1) with
      | none =>
        rw [M.bind_error (fetchOperand_fault (g := { r.m.regs with pc := r.m.regs.pc + 1 }) r _ _ h₁)] at ht
        exact .unmapped [op] b.tick _ _ (r.m.regs.pc + 1) (by simp) hr₁ ((Bus.read_none_iff _ _).mp h₁) ht
      | some q =>
        obtain ⟨b1, b₁⟩ := q
        rw [M.bind_ok (fetchOperand_went (g := { r.m.regs with pc := r.m.regs.pc + 1 }) r _ _ h₁)] at ht
        obtain ⟨he, rfl⟩ := hcell b1 (b₁.tick.glance (r.m.regs.pc + 1 + 1))
        have ho : opcodeOf (Instr.jsrAbs b1 (b₁.tick.glance (r.m.regs.pc + 1 + 1))) = op := by rw [opcodeOf, he]; rfl
        refine .instr (Instr.jsrAbs b1 (b₁.tick.glance (r.m.regs.pc + 1 + 1))) [op, b1] b₁.tick rfl
          (by rw [he]; rfl) ?_ ?_
        · rw [fetchReads_two]
          exact Bus.replay_snoc_rd hr₁ h₁
        · rw [ht, ho]
          simp only [BitVec.add_assoc]
          rfl

/-- The fetch of bytes that decode, as far as they can be read: it has that instruction, or, for JSR, one with the
same meaning; or it stops at the first byte it cannot read. -/
theorem fetchInstr_decoded (r : Run) {bytes rest : List Byte} {i : Instr} (hd : decode bytes = .ok (i, rest)) :
    (∀ b, r.m.bus.replay (fetchReads r.m.regs.pc (bytes.take (fetchCycles i))) = some b →
      ∃ j, (∀ s, exec j s = exec i s) ∧
        fetchInstr r = .ok (.instr j) (r.went (fetchReads r.m.regs.pc (bytes.take (fetchCycles i))) b
          { r.m.regs with pc := r.m.regs.pc + BitVec.ofNat 16 (fetchCycles i) }
          { r.q.latch with ir := .opcode (opcodeOf i) })) ∧
    (∀ n c b, (fetchReads r.m.regs.pc (bytes.take (fetchCycles i)))[n]? = some c →
      r.m.bus.replay ((fetchReads r.m.regs.pc (bytes.take (fetchCycles i))).take n) = some b →
      b.mapped c.address = false →
      ∃ g l, fetchInstr r = .error (.unmappedAccess c.address c.access)
        (r.went ((fetchReads r.m.regs.pc (bytes.take (fetchCycles i))).take n) b g l).clock) := by
  have two : r.m.regs.pc + BitVec.ofNat 16 2 = r.m.regs.pc + 1 + 1 := by rw [BitVec.add_assoc]; rfl
  have three : r.m.regs.pc + BitVec.ofNat 16 3 = r.m.regs.pc + 1 + 1 + 1 := by
    rw [BitVec.add_assoc, BitVec.add_assoc]; rfl
  cases bytes with
  | nil => cases hd
  | cons op tail =>
    have hcell := opcodeCell_agrees op
    have zero : ∀ (rs : List BusCycle) n c b, (rd r.m.regs.pc op :: rs)[n]? = some c → n = 0 →
        r.m.bus.replay ((rd r.m.regs.pc op :: rs).take n) = some b → b.mapped c.address = false →
        ∃ g l, fetchInstr r = .error (.unmappedAccess c.address c.access)
          (r.went ((rd r.m.regs.pc op :: rs).take n) b g l).clock := by
      rintro rs n c b hc rfl hb hm
      simp only [List.getElem?_cons_zero, Option.some.injEq] at hc
      subst hc
      obtain rfl := (Bus.replay_nil _ _).mp hb
      exact ⟨_, _, by rw [List.take_zero, Run.went_nil]; exact fetchInstr_unmapped r ((Bus.read_none_iff _ _).mpr hm)⟩
    have first : ∀ (rs : List BusCycle) b, r.m.bus.replay (rd r.m.regs.pc op :: rs) = some b →
        ∃ b₁, r.m.bus.read r.m.regs.pc = some (op, b₁) ∧ b₁.tick.replay rs = some b :=
      fun rs b h => (Bus.replay_rd _ _ _ _ _).mp h
    cases hc : opcodeCell op with
    | no => simp [decode, hc] at hd
    | op0 i₀ =>
      simp only [decode, hc, Except.ok.injEq, Prod.mk.injEq] at hd
      obtain ⟨rfl, rfl⟩ := hd
      rw [hc] at hcell
      obtain ⟨he, hf⟩ := hcell
      have ho : opcodeOf i₀ = op := by rw [opcodeOf, he]; rfl
      rw [hf, ho]
      constructor
      · intro b hb
        obtain ⟨b₁, h₁, hb⟩ := first [] b hb
        obtain rfl := (Bus.replay_nil _ _).mp hb
        refine ⟨i₀, fun _ => rfl, ?_⟩
        rw [fetchInstr_opcode r h₁, hc]
        simp only
        rw [M.bind_ok (tickDevices_went r _ _ _ _)]
        rfl
      · intro n c b hn hb hm
        cases n with
        | zero => exact zero [] 0 c b hn rfl hb hm
        | succ n => simp [fetchReads] at hn
    | op1 f =>
      cases tail with
      | nil => simp [decode, hc] at hd
      | cons b1 tail =>
        simp only [decode, hc, Except.ok.injEq, Prod.mk.injEq] at hd
        obtain ⟨rfl, rfl⟩ := hd
        rw [hc] at hcell
        obtain ⟨he, hf⟩ := hcell b1
        have ho : opcodeOf (f b1) = op := by rw [opcodeOf, he]; rfl
        rw [hf, ho]
        constructor
        · intro b hb
          obtain ⟨b₁, h₁, hb⟩ := first _ b hb
          obtain ⟨b₂, h₂, hb⟩ := (Bus.replay_rd _ _ _ _ _).mp hb
          obtain rfl := (Bus.replay_nil _ _).mp hb
          refine ⟨f b1, fun _ => rfl, ?_⟩
          rw [fetchInstr_opcode r h₁, hc, two]
          simp only
          rw [M.bind_ok (tickDevices_went r _ _ _ _),
            M.bind_ok (fetchOperand_went (g := { r.m.regs with pc := r.m.regs.pc + 1 }) r _ _ h₂)]
          rfl
        · intro n c b hn hb hm
          match n with
          | 0 => exact zero _ 0 c b hn rfl hb hm
          | 1 =>
            simp only [fetchReads, List.take, List.getElem?_cons_succ, List.getElem?_cons_zero, Option.some.injEq] at hn
            subst hn
            obtain ⟨b₁, h₁, hb⟩ := first _ b hb
            obtain rfl := (Bus.replay_nil _ _).mp hb
            refine ⟨{ r.m.regs with pc := r.m.regs.pc + 1 }, { r.q.latch with ir := .opcode op }, ?_⟩
            rw [fetchInstr_opcode r h₁, hc]
            simp only
            rw [M.bind_ok (tickDevices_went r _ _ _ _), M.bind_error (fetchOperand_fault
              (g := { r.m.regs with pc := r.m.regs.pc + 1 }) r _ _ ((Bus.read_none_iff _ _).mpr hm))]
            rfl
          | n + 2 => simp [fetchReads] at hn
    | op2 f =>
      match tail with
      | [] => simp [decode, hc] at hd
      | [_] => simp [decode, hc] at hd
      | b1 :: b2 :: tail =>
        simp only [decode, hc, Except.ok.injEq, Prod.mk.injEq] at hd
        obtain ⟨rfl, rfl⟩ := hd
        rw [hc] at hcell
        obtain ⟨he, hf⟩ := hcell b1 b2
        have ho : opcodeOf (f b1 b2) = op := by rw [opcodeOf, he]; rfl
        rw [hf, ho]
        constructor
        · intro b hb
          obtain ⟨b₁, h₁, hb⟩ := first _ b hb
          obtain ⟨b₂, h₂, hb⟩ := (Bus.replay_rd _ _ _ _ _).mp hb
          obtain ⟨b₃, h₃, hb⟩ := (Bus.replay_rd _ _ _ _ _).mp hb
          obtain rfl := (Bus.replay_nil _ _).mp hb
          refine ⟨f b1 b2, fun _ => rfl, ?_⟩
          rw [fetchInstr_opcode r h₁, hc, three]
          simp only
          rw [M.bind_ok (tickDevices_went r _ _ _ _),
            M.bind_ok (fetchOperand_went (g := { r.m.regs with pc := r.m.regs.pc + 1 }) r _ _ h₂),
            M.bind_ok (fetchOperand_went (g := { r.m.regs with pc := r.m.regs.pc + 1 + 1 }) r _ _ h₃)]
          rfl
        · intro n c b hn hb hm
          match n with
          | 0 => exact zero _ 0 c b hn rfl hb hm
          | 1 =>
            simp only [fetchReads, List.take, List.getElem?_cons_succ, List.getElem?_cons_zero, Option.some.injEq] at hn
            subst hn
            obtain ⟨b₁, h₁, hb⟩ := first _ b hb
            obtain rfl := (Bus.replay_nil _ _).mp hb
            refine ⟨{ r.m.regs with pc := r.m.regs.pc + 1 }, { r.q.latch with ir := .opcode op }, ?_⟩
            rw [fetchInstr_opcode r h₁, hc]
            simp only
            rw [M.bind_ok (tickDevices_went r _ _ _ _), M.bind_error (fetchOperand_fault
              (g := { r.m.regs with pc := r.m.regs.pc + 1 }) r _ _ ((Bus.read_none_iff _ _).mpr hm))]
            rfl
          | 2 =>
            simp only [fetchReads, List.take, List.getElem?_cons_succ, List.getElem?_cons_zero, Option.some.injEq] at hn
            subst hn
            obtain ⟨b₁, h₁, hb⟩ := first _ b hb
            obtain ⟨b₂, h₂, hb⟩ := (Bus.replay_rd _ _ _ _ _).mp hb
            obtain rfl := (Bus.replay_nil _ _).mp hb
            refine ⟨{ r.m.regs with pc := r.m.regs.pc + 1 + 1 }, { r.q.latch with ir := .opcode op }, ?_⟩
            rw [fetchInstr_opcode r h₁, hc]
            simp only
            rw [M.bind_ok (tickDevices_went r _ _ _ _),
              M.bind_ok (fetchOperand_went (g := { r.m.regs with pc := r.m.regs.pc + 1 }) r _ _ h₂),
              M.bind_error (fetchOperand_fault
                (g := { r.m.regs with pc := r.m.regs.pc + 1 + 1 }) r _ _ ((Bus.read_none_iff _ _).mpr hm))]
            rfl
          | n + 3 => simp [fetchReads] at hn
    | op2late f =>
      match tail with
      | [] => simp [decode, hc] at hd
      | [_] => simp [decode, hc] at hd
      | b1 :: b2 :: tail =>
        simp only [decode, hc, Except.ok.injEq, Prod.mk.injEq] at hd
        obtain ⟨rfl, rfl⟩ := hd
        rw [hc] at hcell
        obtain ⟨he, rfl⟩ := hcell b1 b2
        have ho : opcodeOf (Instr.jsrAbs b1 b2) = op := by rw [opcodeOf, he]; rfl
        rw [show fetchCycles (Instr.jsrAbs b1 b2) = 2 from rfl, ho]
        constructor
        · intro b hb
          obtain ⟨b₁, h₁, hb⟩ := first _ b hb
          obtain ⟨b₂, h₂, hb⟩ := (Bus.replay_rd _ _ _ _ _).mp hb
          obtain rfl := (Bus.replay_nil _ _).mp hb
          refine ⟨Instr.jsrAbs b1 (b₂.tick.glance (r.m.regs.pc + 1 + 1)), fun _ => rfl, ?_⟩
          rw [fetchInstr_opcode r h₁, hc, two]
          simp only
          rw [M.bind_ok (tickDevices_went r _ _ _ _),
            M.bind_ok (fetchOperand_went (g := { r.m.regs with pc := r.m.regs.pc + 1 }) r _ _ h₂)]
          rfl
        · intro n c b hn hb hm
          match n with
          | 0 => exact zero _ 0 c b hn rfl hb hm
          | 1 =>
            simp only [fetchReads, List.take, List.getElem?_cons_succ, List.getElem?_cons_zero, Option.some.injEq] at hn
            subst hn
            obtain ⟨b₁, h₁, hb⟩ := first _ b hb
            obtain rfl := (Bus.replay_nil _ _).mp hb
            refine ⟨{ r.m.regs with pc := r.m.regs.pc + 1 }, { r.q.latch with ir := .opcode op }, ?_⟩
            rw [fetchInstr_opcode r h₁, hc]
            simp only
            rw [M.bind_ok (tickDevices_went r _ _ _ _), M.bind_error (fetchOperand_fault
              (g := { r.m.regs with pc := r.m.regs.pc + 1 }) r _ _ ((Bus.read_none_iff _ _).mpr hm))]
            rfl
          | n + 2 => simp [fetchReads] at hn

/-! ### Steps -/

/-- A step of a machine that is not halted is one sequence. -/
theorem step_active {s : State} (h : ∀ r, s.phase ≠ .halted r) : step s = runSequence s := by
  unfold step
  split
  · exact absurd ‹_› (h _)
  · rfl
  · rfl

/-- The run of a step, after the boundary sample. -/
theorem State.sampled_boundary {s : State} (h : s.seq = .boundary) :
    s.enter.sampled = ⟨{ s with trace := [], result := ⟨0, []⟩, nmiPrev := s.bus.lines.nmi.asserted },
      ⟨0, .fresh, s.regs, s.nmiPrev⟩⟩ := by
  rw [State.enter_boundary h]
  rfl

/-- The same run, in the form of these lemmas. -/
theorem State.sampled_went {s : State} (h : s.seq = .boundary) :
    s.enter.sampled = s.enter.sampled.went [] s.bus s.regs .fresh := by
  rw [State.sampled_boundary h]
  simp [Run.went, Phase.afterCycles]

/-- A ready machine's step runs an instruction. -/
theorem State.Ready.step {s : State} (h : s.Ready) : step s = runInstruction s.enter.sampled := by
  rw [step_active h.active, runSequence, h.quiet]

theorem Phase.afterCycles_of_ne {cs : List BusCycle} (p : Phase) (h : cs ≠ []) : p.afterCycles cs = p.ticked := by
  cases cs with
  | nil => exact absurd rfl h
  | cons => rfl

theorem fetchReads_length (pc : Word) (bytes : List Byte) : (fetchReads pc bytes).length = bytes.length := by
  induction bytes generalizing pc with
  | nil => rfl
  | cons v rest ih => simp only [fetchReads, List.length_cons, ih]

theorem fetchReads_ne_nil {bytes : List Byte} (pc : Word) (h : bytes ≠ []) : fetchReads pc bytes ≠ [] := by
  cases bytes with
  | nil => exact absurd rfl h
  | cons => simp [fetchReads]

/-- What a whole step leaves: the run of a step after its cycles, finished. -/
theorem State.sampled_finish {s : State} {cs : List BusCycle} (h : s.seq = .boundary) (hc : cs ≠ []) (b g l) :
    (s.enter.sampled.went cs b g l).finish = s.stepped cs b g := by
  rw [State.sampled_boundary h]
  simp [Run.went, Run.finish, State.stepped, Phase.afterCycles_of_ne _ hc]

/-- What a fault in the next cycle of a step leaves. -/
theorem State.sampled_halt {s : State} (h : s.seq = .boundary) (cs b g l k) :
    (s.enter.sampled.went cs b g l).clock.halt k = s.faulted cs b k := by
  rw [State.sampled_boundary h]
  simp [Run.went, Run.halt, Run.clock, State.faulted, State.enter_boundary h]

/-- The machine inside a sequence after its fetch. -/
theorem State.sampled_leave {s : State} {bytes : List Byte} (h : s.seq = .boundary) (hb : bytes ≠ []) (op : Byte)
    (b : Bus) :
    (s.enter.sampled.went (fetchReads s.regs.pc bytes) b
      { s.regs with pc := s.regs.pc + BitVec.ofNat 16 bytes.length } { Latches.fresh with ir := .opcode op }).leave =
      s.fetched op bytes b := by
  rw [State.sampled_boundary h]
  simp [Run.went, Run.leave, State.fetched, fetchReads_length, Phase.afterCycles_of_ne _ (fetchReads_ne_nil _ hb)]

/-- A whole step that is a sequence from the boundary on. -/
theorem runFrom_sampled_tracks {m : M Unit} {s : State} {cs : List BusCycle} {g : Regs} {l : Latches}
    (hs : s.seq = .boundary) (hc : cs ≠ []) (h : Tracks m s.regs .fresh cs () g l) :
    (∀ b, s.bus.replay cs = some b → runFrom m s.enter.sampled = .next (s.stepped cs b g)) ∧
      FaultsAlong (fun s => runFrom m s.enter.sampled) s cs := by
  have ht := h s.enter.sampled [] s.bus
  rw [← State.sampled_went hs] at ht
  constructor
  · intro b hb
    rw [runFrom, ht.1 b hb]
    simp only [List.nil_append, State.sampled_finish hs hc]
  · intro n c b hn hb hm
    obtain ⟨g₁, l₁, he⟩ := ht.2 n c b hn hb hm
    simp only [runFrom, he, List.nil_append, State.sampled_halt hs, FaultKind.toFault]

/-- The bytes a decoded instruction's fetch reads are as many as its fetch cycles, and one at least. -/
theorem decode_fetched {bytes rest : List Byte} {i : Instr} (h : decode bytes = .ok (i, rest)) :
    (bytes.take (fetchCycles i)).length = fetchCycles i ∧ bytes.take (fetchCycles i) ≠ [] := by
  have key : ∀ n : Nat, fetchCycles i = n → 0 < n → n ≤ bytes.length →
      (bytes.take (fetchCycles i)).length = fetchCycles i ∧ bytes.take (fetchCycles i) ≠ [] := by
    rintro n rfl h₀ h₁
    have h₂ : (bytes.take (fetchCycles i)).length = fetchCycles i := List.length_take_of_le h₁
    exact ⟨h₂, fun he => by rw [he] at h₂; simp at h₂; omega⟩
  cases bytes with
  | nil => cases h
  | cons op tail =>
    have hcell := opcodeCell_agrees op
    cases hc : opcodeCell op with
    | no => simp [decode, hc] at h
    | op0 i₀ =>
      simp only [decode, hc, Except.ok.injEq, Prod.mk.injEq] at h
      obtain ⟨rfl, rfl⟩ := h
      rw [hc] at hcell
      exact key 1 hcell.2 (by decide) (by simp)
    | op1 f =>
      cases tail with
      | nil => simp [decode, hc] at h
      | cons b1 tail =>
        simp only [decode, hc, Except.ok.injEq, Prod.mk.injEq] at h
        obtain ⟨rfl, rfl⟩ := h
        rw [hc] at hcell
        exact key 2 (hcell b1).2 (by decide) (by simp)
    | op2 f =>
      match tail with
      | [] => simp [decode, hc] at h
      | [_] => simp [decode, hc] at h
      | b1 :: b2 :: tail =>
        simp only [decode, hc, Except.ok.injEq, Prod.mk.injEq] at h
        obtain ⟨rfl, rfl⟩ := h
        rw [hc] at hcell
        exact key 3 (hcell b1 b2).2 (by decide) (by simp)
    | op2late f =>
      match tail with
      | [] => simp [decode, hc] at h
      | [_] => simp [decode, hc] at h
      | b1 :: b2 :: tail =>
        simp only [decode, hc, Except.ok.injEq, Prod.mk.injEq] at h
        obtain ⟨rfl, rfl⟩ := h
        rw [hc] at hcell
        obtain ⟨-, rfl⟩ := hcell b1 b2
        exact key 2 rfl (by decide) (by simp)

/-- The fetch of a step and the rest of its sequence make a whole step. -/
theorem State.fetched_after (s : State) (op : Byte) (bytes : List Byte) (b b' : Bus)
    (cs : List BusCycle) (g : Regs) :
    (s.fetched op bytes b).after cs b' g = s.stepped (fetchReads s.regs.pc bytes ++ cs) b' g := by
  have hp : s.phase.ticked.afterCycles cs = s.phase.ticked := by
    cases cs <;> cases s.phase <;> rfl
  simp [State.after, State.fetched, State.stepped, State.enter, fetchReads_length, hp, Nat.add_assoc]

/-- A fault in the rest of a sequence is the fault of the whole step. -/
theorem State.fetched_faulted {s : State} (hs : s.seq = .boundary) (op : Byte) (bytes : List Byte) (b b' : Bus)
    (cs : List BusCycle) (k : FaultKind) :
    (s.fetched op bytes b).faulted cs b' k = s.faulted (fetchReads s.regs.pc bytes ++ cs) b' k := by
  simp [State.faulted, State.fetched, State.enter, hs, fetchReads_length, Nat.add_assoc]

/-- A whole step of an instruction: its fetch, then the rest of its sequence. -/
theorem step_tracks {s : State} {bytes rest : List Byte} {i : Instr} {m : M Unit} {cs : List BusCycle} {g : Regs}
    {l : Latches} (hs : s.Ready) (hd : decode bytes = .ok (i, rest)) (hm : ∀ s, exec i s = runSeq m s)
    (h : Tracks m { s.regs with pc := s.regs.pc + BitVec.ofNat 16 (fetchCycles i) }
      { Latches.fresh with ir := .opcode (opcodeOf i) } cs () g l) :
    let fetch := fetchReads s.regs.pc (bytes.take (fetchCycles i))
    (∀ b, s.bus.replay (fetch ++ cs) = some b → step s = .next (s.stepped (fetch ++ cs) b g)) ∧
      FaultsAlong step s (fetch ++ cs) := by
  intro fetch
  obtain ⟨hlen, hne⟩ := decode_fetched hd
  have hf := fetchInstr_decoded s.enter.sampled hd
  have hb₀ : s.enter.sampled.m.bus = s.bus := by rw [State.sampled_boundary hs.boundary]
  have hg₀ : s.enter.sampled.m.regs = s.regs := by rw [State.sampled_boundary hs.boundary]
  have hl₀ : s.enter.sampled.q.latch = .fresh := by rw [State.sampled_boundary hs.boundary]
  rw [hb₀, hg₀, hl₀] at hf
  have hstep : ∀ b, s.bus.replay fetch = some b →
      step s = runSeq m (s.fetched (opcodeOf i) (bytes.take (fetchCycles i)) b) := by
    intro b hb
    obtain ⟨j, hj, he⟩ := hf.1 b hb
    rw [hs.step, runInstruction, he]
    simp only
    rw [hj, hm, ← State.sampled_leave hs.boundary hne, hlen]
  have hrest : ∀ b, _ := fun b => runSeq_tracks (s := s.fetched (opcodeOf i) (bytes.take (fetchCycles i)) b)
    (m := m) (cs := cs) (g := g) (l := l) (by
      rw [show (s.fetched (opcodeOf i) (bytes.take (fetchCycles i)) b).regs =
        { s.regs with pc := s.regs.pc + BitVec.ofNat 16 (fetchCycles i) } by simp only [State.fetched, hlen]]
      exact h)
  constructor
  · intro b hb
    rw [Bus.replay_append, Option.bind_eq_some_iff] at hb
    obtain ⟨b₁, hb₁, hb⟩ := hb
    rw [hstep b₁ hb₁, (hrest b₁).1 b hb, State.fetched_after]
  · intro n c b hc hb hu
    by_cases hn : n < fetch.length
    · rw [List.getElem?_append_left hn] at hc
      rw [List.take_append_of_le_length (Nat.le_of_lt hn)] at hb ⊢
      obtain ⟨g₁, l₁, he⟩ := hf.2 n c b hc hb hu
      rw [hs.step, runInstruction, he]
      simp only [FaultKind.toFault]
      rw [State.sampled_halt hs.boundary]
    · have hn := Nat.not_lt.mp hn
      rw [List.getElem?_append_right hn] at hc
      rw [List.take_append, List.take_of_length_le hn] at hb ⊢
      rw [Bus.replay_append, Option.bind_eq_some_iff] at hb
      obtain ⟨b₁, hb₁, hb⟩ := hb
      rw [hstep b₁ hb₁, (hrest b₁).2 _ c b hc hb hu, State.fetched_faulted hs.boundary]

/-! ### Everything a step can do -/

/-- The cells without an instruction are the opcodes R306 lists. -/
theorem opcodeCell_no (op : Byte) : opcodeCell op = .no ↔ op ∈ unimplementedOpcodes := by
  have rows : ∀ hi < 16, ∀ lo < 16,
      (match opcodeCell (BitVec.ofNat 8 (hi * 16 + lo)) with | .no => true | _ => false) =
        decide (BitVec.ofNat 8 (hi * 16 + lo) ∈ unimplementedOpcodes) := by decide +kernel
  have h := rows (op.toNat / 16) (by have := op.isLt; omega) (op.toNat % 16) (by omega)
  rw [Nat.div_add_mod', BitVec.ofNat_toNat, BitVec.setWidth_eq] at h
  cases hc : opcodeCell op <;> simp_all

/-- The no-op of an unimplemented opcode, its read mapped. -/
theorem substituteNop_went {b b' : Bus} {g : Regs} {u : Byte} (op : Byte) (pc : Word) (r : Run) (cs l)
    (h : b.read g.pc = some (u, b')) :
    substituteNop op pc (r.went cs b g l) = reportOpcode op pc (r.went (cs ++ [rd g.pc u]) b'.tick g l) := by
  unfold substituteNop
  rw [M.bind_ok (getRegs_went r _ _ _ _), M.bind_ok (dummyRead_went r _ _ _ h)]

/-- The no-op of an unimplemented opcode, its read not mapped. -/
theorem substituteNop_fault {b : Bus} {g : Regs} (op : Byte) (pc : Word) (r : Run) (cs l) (h : b.read g.pc = none) :
    substituteNop op pc (r.went cs b g l) = .error (.unmappedAccess g.pc .read) (r.went cs b g l).clock := by
  unfold substituteNop
  rw [M.bind_ok (getRegs_went r _ _ _ _)]
  exact M.bind_error (M.bind_error (readCycle_fault r _ _ _ h))

/-- Everything a step of a machine at a boundary that is not halted can do: it makes from two to seven bus cycles
and ends at a boundary; or it stops at an unmapped address; or it stops at an unimplemented opcode. -/
inductive StepEnds (s : State) : Prop where
  | next (cs : List BusCycle) (b : Bus) (g : Regs) (reports : List OpcodeReport) (hreplay : s.bus.replay cs = some b)
      (hleast : 2 ≤ cs.length) (hmost : cs.length ≤ 7)
      (hstep : step s = .next { s.stepped cs b g with result := ⟨cs.length, reports⟩ })
  | unmapped (cs : List BusCycle) (b : Bus) (a : Word) (acc : Access) (hreplay : s.bus.replay cs = some b)
      (hmap : b.mapped a = false) (hfewer : cs.length < 7)
      (hstep : step s = .fault (.unmappedAccess a acc (s.faulted cs b (.unmappedAccess a acc))))
  | unimplemented (op : Byte) (b : Bus) (hcell : op ∈ unimplementedOpcodes)
      (hread : s.bus.read s.regs.pc = some (op, b))
      (hstep : step s = .fault (.unimplementedOpcode op s.regs.pc { s with
        bus := b
        cycles := s.cycles + 1
        phase := .halted ⟨.unimplementedOpcode op s.regs.pc, s.regs.pc, s.cycles + 1, 1⟩
        trace := [rd s.regs.pc op]
        result := ⟨1, []⟩ }))

theorem step_ends {s : State} (hs : s.seq = .boundary) (ha : ∀ r, s.phase ≠ .halted r) : StepEnds s := by
  have hb₀ : s.enter.sampled.m.bus = s.bus := by rw [State.sampled_boundary hs]
  have hg₀ : s.enter.sampled.m.regs = s.regs := by rw [State.sampled_boundary hs]
  have hl₀ : s.enter.sampled.q.latch = .fresh := by rw [State.sampled_boundary hs]
  cases hp : s.pendingService with
  | some k =>
    have hstep : step s = runFrom (serviceSequence k) s.enter.sampled := by rw [step_active ha, runSequence, hp]
    rcases serviceSequence_does k s.enter.sampled with ⟨v, cs, b, g, l, hm⟩ | ⟨a, acc, cs, b, g, l, hm⟩
    · have hlen : cs.length = 7 := Nat.le_antisymm hm.most hm.least
      refine .next cs b g [] (by rw [← hb₀]; exact hm.replay) (by omega) (by omega) ?_
      rw [hstep, runFrom, hm.run]
      simp only
      rw [State.sampled_finish hs (by intro h; simp [h] at hlen)]
      rfl
    · refine .unmapped cs b a acc (by rw [← hb₀]; exact hm.replay) hm.unmapped hm.fewer ?_
      rw [hstep, runFrom, hm.run]
      simp only [FaultKind.toFault]
      rw [State.sampled_halt hs]
  | none =>
    have hr : s.Ready := ⟨hs, ha, hp⟩
    have hstep := hr.step
    rw [runInstruction] at hstep
    cases fetchInstr_ends s.enter.sampled with
    | instr i bytes b hlen hbytes hreplay hrun =>
      rw [hb₀, hg₀] at hreplay
      rw [hrun, hg₀, hl₀] at hstep
      simp only at hstep
      have hne : bytes ≠ [] := by
        intro h
        obtain ⟨bounds, -⟩ := exec_does i
        unfold CycleBounds at bounds
        simp [h] at hlen
        omega
      rw [State.sampled_leave hs hne] at hstep
      obtain ⟨bounds, m, hm, hdoes⟩ := exec_does i
      unfold CycleBounds at bounds
      rw [hm] at hstep
      rcases hdoes.runSeq (s.fetched (opcodeOf i) bytes b) with
        ⟨cs, b', g, hr', hlo, hhi, -, -, hrun'⟩ | ⟨a, acc, cs, b', hr', hu, hhi, -, hrun'⟩
      · refine .next (fetchReads s.regs.pc bytes ++ cs) b' g [] ?_ ?_ ?_ ?_
        · rw [Bus.replay_append, hreplay]; exact hr'
        · rw [List.length_append, fetchReads_length]; omega
        · rw [List.length_append, fetchReads_length]; omega
        · rw [hstep, hrun', State.fetched_after]; rfl
      · refine .unmapped (fetchReads s.regs.pc bytes ++ cs) b' a acc ?_ hu ?_ ?_
        · rw [Bus.replay_append, hreplay]; exact hr'
        · rw [List.length_append, fetchReads_length]; omega
        · rw [hstep, hrun', State.fetched_faulted hs]
    | substituted op b hcell hpolicy hreplay hrun =>
      rw [hb₀, hg₀] at hreplay
      rw [hrun, hg₀, hl₀] at hstep
      simp only [runFrom] at hstep
      cases hu : b.read (s.regs.pc + 1) with
      | none =>
        rw [substituteNop_fault (g := { s.regs with pc := s.regs.pc + 1 }) op _ _ _ _ hu] at hstep
        refine .unmapped [rd s.regs.pc op] b (s.regs.pc + 1) .read hreplay ((Bus.read_none_iff _ _).mp hu) (by simp) ?_
        rw [hstep]
        simp only [FaultKind.toFault]
        rw [State.sampled_halt hs]
      | some q =>
        obtain ⟨u, b'⟩ := q
        rw [substituteNop_went (g := { s.regs with pc := s.regs.pc + 1 }) op _ _ _ _ hu] at hstep
        refine .next [rd s.regs.pc op, rd (s.regs.pc + 1) u] b'.tick { s.regs with pc := s.regs.pc + 1 }
          [⟨op, s.regs.pc⟩] (Bus.replay_snoc_rd hreplay hu) (by simp) (by simp) ?_
        rw [hstep, reportOpcode, State.sampled_boundary hs]
        simp [Run.went, Run.finish, State.stepped, Phase.afterCycles]
    | unimplemented op b hcell hpolicy hread hrun =>
      rw [hb₀, hg₀] at hread
      rw [hrun, hg₀, hl₀] at hstep
      refine .unimplemented op b ((opcodeCell_no op).mp hcell) hread ?_
      rw [hstep, State.sampled_boundary hs]
      simp [Run.went, Run.halt, FaultKind.toFault, hs, Phase.afterCycles]
    | unmapped bytes b g l a hlen hreplay hmap hrun =>
      rw [hb₀, hg₀] at hreplay
      rw [hrun, hg₀] at hstep
      refine .unmapped (fetchReads s.regs.pc bytes) b a .read hreplay hmap (by rw [fetchReads_length]; omega) ?_
      rw [hstep]
      simp only [FaultKind.toFault]
      rw [State.sampled_halt hs]

/-! ### Cycles whose reads are not known yet -/

/-- The cycles of a list of accesses, a write with its byte and a read without one, the bytes read supplied. -/
def fillReads (accesses : List (Option Byte × Word)) (f : Nat → Byte) : List BusCycle :=
  match accesses with
  | [] => []
  | (none, a) :: rest => rd a (f 0) :: fillReads rest (fun n => f (n + 1))
  | (some v, a) :: rest => wr a v :: fillReads rest (fun n => f (n + 1))

/-- On any bus, such accesses can be replayed with the bytes that are there, or up to the first at an unmapped
address. -/
theorem Bus.replay_fill (accesses : List (Option Byte × Word)) (b : Bus) :
    (∃ f b', b.replay (fillReads accesses f) = some b') ∨
    (∃ f n c b', (fillReads accesses f)[n]? = some c ∧ b.replay ((fillReads accesses f).take n) = some b' ∧
      b'.mapped c.address = false) := by
  induction accesses generalizing b with
  | nil => exact .inl ⟨fun _ => 0, b, rfl⟩
  | cons p rest ih =>
    obtain ⟨o, a⟩ := p
    cases hm : b.mapped a with
    | false =>
      refine .inr ⟨fun _ => 0, 0, ?_⟩
      cases o with
      | none => exact ⟨rd a 0, b, rfl, rfl, hm⟩
      | some v => exact ⟨wr a v, b, rfl, rfl, hm⟩
    | true =>
      cases o with
      | none =>
        obtain ⟨v, b₁, h⟩ := Bus.read_of_mapped hm
        rcases ih b₁.tick with ⟨f, b', hf⟩ | ⟨f, n, c, b', hc, hf, hu⟩
        · exact .inl ⟨fun | 0 => v | n + 1 => f n, b', (Bus.replay_rd _ _ _ _ _).mpr ⟨b₁, h, hf⟩⟩
        · exact .inr ⟨fun | 0 => v | n + 1 => f n, n + 1, c, b', hc, (Bus.replay_rd _ _ _ _ _).mpr ⟨b₁, h, hf⟩, hu⟩
      | some v =>
        obtain ⟨b₁, h⟩ := Bus.write_of_mapped v hm
        rcases ih b₁.tick with ⟨f, b', hf⟩ | ⟨f, n, c, b', hc, hf, hu⟩
        · exact .inl ⟨fun | 0 => v | n + 1 => f n, b', (Bus.replay_wr _ _ _ _ _).mpr ⟨b₁, h, hf⟩⟩
        · exact .inr ⟨fun | 0 => v | n + 1 => f n, n + 1, c, b', hc, (Bus.replay_wr _ _ _ _ _).mpr ⟨b₁, h, hf⟩, hu⟩

/-- What goes along such accesses, and answers a next state, made them all. -/
theorem fillReads_of_next {run : State → StepOutcome} {s t : State} {accesses : List (Option Byte × Word)}
    {leaves : (Nat → Byte) → Bus → State}
    (h : ∀ f, (∀ b, s.bus.replay (fillReads accesses f) = some b → run s = .next (leaves f b)) ∧
      FaultsAlong run s (fillReads accesses f)) (ht : run s = .next t) :
    ∃ f b, s.bus.replay (fillReads accesses f) = some b ∧ t = leaves f b := by
  rcases Bus.replay_fill accesses s.bus with ⟨f, b, hb⟩ | ⟨f, n, c, b, hc, hb, hu⟩
  · refine ⟨f, b, hb, ?_⟩
    rw [(h f).1 b hb] at ht
    cases ht
    rfl
  · rw [(h f).2 n c b hc hb hu] at ht
    cases ht

end Sys2Proof.Machine
end

