-- ==== Sys2Proof/Tests/Slice0.lean ====
section
/-! SUPPORT. Tests: expected results from the spec's encoding lists and 95_test_vectors.md, and for each statement
with hypotheses a state and operands that meet them. -/

namespace Sys2Proof.Tests

open Sys2Proof.Machine

/-! ### States and checks -/

/-- Registers and flags as 95_test_vectors.md writes them, `A X Y S PC P`. -/
def regsOf (a x y s : Byte) (pc : Word) (p : Byte) : Regs :=
  ({ State.reset.regs with a := a, x := x, y := y, s := s, pc := pc } : Regs).loadP p

/-- A reference RAM of `size` bytes that holds these cells, attached at these ranges. -/
def onMap (size : Nat) (map : List Range) (g : Regs) (cells : List (Nat × Byte)) : State :=
  { State.reset with
    regs := g
    bus :=
      { map := map.map (fun r => ⟨r, 0⟩)
        devices := [.ram size (cells.foldl (fun m c => Memory.write m c.1 c.2) [])]
        lines := .idle } }

/-- The machine of the vectors: one RAM over the address space. -/
def onRam (g : Regs) (cells : List (Nat × Byte)) : State := onMap 0x10000 [⟨0x0000, 0x10000, 0x0000⟩] g cells

/-- The machine of the fault vectors: a RAM in the lower half, nothing in the upper. -/
def onHalf (g : Regs) (cells : List (Nat × Byte)) : State := onMap 0x8000 [⟨0x0000, 0x8000, 0x0000⟩] g cells

/-- A machine with code and data in page 2 only. -/
def onPage2 (g : Regs) (cells : List (Nat × Byte)) : State := onMap 0x10000 [⟨0x0200, 0x100, 0x0200⟩] g cells

/-- Whether a step answers a next state, after these bus cycles, with these registers and these bytes. -/
def stepsTo (s : State) (cs : List BusCycle) (g : Regs) (cells : List (Word × Byte)) : Bool :=
  match step s with
  | .next t =>
    decide (t.trace = cs) && decide (t.result.cycles = cs.length) && decide (t.cycles = s.cycles + cs.length) &&
      decide (t.regs = g) && cells.all (fun c => decide (t.bus.peek c.1 = some c.2))
  | _ => false

/-- Whether a step faults with this kind and these registers, after these bus cycles, and reports this PC, cycle and
count. -/
def faultsTo (s : State) (k : FaultKind) (cs : List BusCycle) (g : Regs) (report : FaultReport) : Bool :=
  match step s with
  | .fault f =>
    match f with
    | .unmappedAccess _ _ t | .unimplementedOpcode _ _ t =>
      decide (f = k.toFault t) && decide (t.trace = cs) && decide (t.regs = g) && decide (t.phase = .halted report) &&
        decide (t.cycles = report.cycle)
    | .rangeConflict _ _ => false
  | _ => false

/-- Whether every list of bytes decodes to its instruction, with nothing left. -/
def decodesAll (words : List (List Byte × Instr)) : Bool :=
  words.all fun p =>
    match decode p.1 with
    | .ok (i, rest) => decide (i = p.2) && rest.isEmpty
    | .error _ => false

/-- Whether these cycles can be replayed on the bus of a state. -/
def replays (s : State) (cs : List BusCycle) : Bool := (s.bus.replay cs).isSome

/-- Whether the `n`-th of these cycles is at an unmapped address and those before it can be replayed. -/
def faultsAt (s : State) (cs : List BusCycle) (n : Nat) : Bool :=
  match cs[n]?, s.bus.replay (cs.take n) with
  | some c, some b => !b.mapped c.address
  | _, _ => false

/-- Whether an outcome is a next state. -/
def answers (o : StepOutcome) : Bool :=
  match o with
  | .next _ => true
  | _ => false

/-- Whether a machine's next step runs an instruction. -/
def isReady (s : State) : Bool :=
  decide (s.seq = .boundary) && decide (s.pendingService = none) &&
    match s.phase with
    | .halted _ => false
    | _ => true

theorem ready_of {s : State} (h : isReady s = true) : s.Ready := by
  simp only [isReady, Bool.and_eq_true, decide_eq_true_eq] at h
  refine ⟨h.1.1, fun r hr => ?_, h.1.2⟩
  simp [hr] at h

/-- A machine that has faulted at PC = 0x0200, as after V-FT5. -/
def halted : State :=
  { onHalf (regsOf 0x55 0x00 0x00 0xFD 0x0200 0x34) [] with
    cycles := 4
    phase := .halted ⟨.unmappedAccess 0x9000 .write, 0x0200, 4, 4⟩ }

/-! ### Well-formedness -/

/-- 20_memory.md R203: `length = 0` is refused (E2d). -/
theorem test_range_empty : Range.wf ⟨0x1000, 0, 0x0000⟩ = false ∧ Range.nonempty ⟨0x1000, 0, 0x0000⟩ = false := by
  decide

/-- 20_memory.md R203: `base + length > 0x10000` is refused (E2c). -/
theorem test_range_past_space : Range.wf ⟨0xFFF8, 9, 0x0000⟩ = false ∧ Range.fitsSpace ⟨0xFFF8, 9, 0x0000⟩ = false ∧
    Range.wf ⟨0xFFF8, 8, 0x0000⟩ = true := by decide

/-- 20_memory.md R203: `offset + length > 0x10000` is refused. -/
theorem test_range_past_local : Range.wf ⟨0x0000, 2, 0xFFFF⟩ = false ∧ Range.fitsLocal ⟨0x0000, 2, 0xFFFF⟩ = false ∧
    Range.wf ⟨0x0000, 1, 0xFFFF⟩ = true := by decide

/-- A bus with overlapping entries, and one with a memory out of its canonical form, are ill-formed. -/
theorem test_bus_ill_formed :
    Bus.wf ⟨[⟨⟨0x0000, 8, 0⟩, 0⟩, ⟨⟨0x0004, 8, 0⟩, 0⟩], [.ram 8 []], .idle⟩ = false ∧
    Bus.wf ⟨[⟨⟨0x0000, 8, 0⟩, 0⟩], [.ram 8 [(3, 0x01), (3, 0x02)]], .idle⟩ = false ∧
    Bus.wf ⟨[⟨⟨0x0000, 8, 0⟩, 0⟩], [.ram 8 [(3, 0x00)]], .idle⟩ = false ∧
    Bus.wf ⟨[⟨⟨0x0000, 8, 0⟩, 0⟩, ⟨⟨0x0008, 8, 0⟩, 0⟩], [.ram 8 [(3, 0x01)]], .idle⟩ = true := ⟨rfl, rfl, rfl, rfl⟩

/-- 30_encoding.md R306: an unimplemented opcode and a truncated instruction are refused by name. -/
theorem test_decode_refuses :
    decode [0x02, 0x00] = .error (.unimplementedOpcode 0x02) ∧ decode [0xFF] = .error (.unimplementedOpcode 0xFF) ∧
    decode [0xAD, 0x34] = .error (.truncated 0xAD) ∧ decode [] = .error .empty := ⟨rfl, rfl, rfl, rfl⟩

/-! ### Decoding: every constructor, its opcode bit by bit from the Encoding line of its rule -/

theorem test_decode_loads : decodesAll [
    ([0b10101001, 0x34], .ldaImm 0x34),
    ([0b10100101, 0x34], .ldaZp 0x34),
    ([0b10110101, 0x34], .ldaZpx 0x34),
    ([0b10101101, 0x34, 0x12], .ldaAbs 0x34 0x12),
    ([0b10111101, 0x34, 0x12], .ldaAbsx 0x34 0x12),
    ([0b10111001, 0x34, 0x12], .ldaAbsy 0x34 0x12),
    ([0b10100001, 0x34], .ldaIzx 0x34),
    ([0b10110001, 0x34], .ldaIzy 0x34),
    ([0b10100010, 0x34], .ldxImm 0x34),
    ([0b10100110, 0x34], .ldxZp 0x34),
    ([0b10110110, 0x34], .ldxZpy 0x34),
    ([0b10101110, 0x34, 0x12], .ldxAbs 0x34 0x12),
    ([0b10111110, 0x34, 0x12], .ldxAbsy 0x34 0x12),
    ([0b10100000, 0x34], .ldyImm 0x34),
    ([0b10100100, 0x34], .ldyZp 0x34),
    ([0b10110100, 0x34], .ldyZpx 0x34),
    ([0b10101100, 0x34, 0x12], .ldyAbs 0x34 0x12),
    ([0b10111100, 0x34, 0x12], .ldyAbsx 0x34 0x12)] = true := rfl

theorem test_decode_stores : decodesAll [
    ([0b10000101, 0x34], .staZp 0x34),
    ([0b10010101, 0x34], .staZpx 0x34),
    ([0b10001101, 0x34, 0x12], .staAbs 0x34 0x12),
    ([0b10011101, 0x34, 0x12], .staAbsx 0x34 0x12),
    ([0b10011001, 0x34, 0x12], .staAbsy 0x34 0x12),
    ([0b10000001, 0x34], .staIzx 0x34),
    ([0b10010001, 0x34], .staIzy 0x34),
    ([0b10000110, 0x34], .stxZp 0x34),
    ([0b10010110, 0x34], .stxZpy 0x34),
    ([0b10001110, 0x34, 0x12], .stxAbs 0x34 0x12),
    ([0b10000100, 0x34], .styZp 0x34),
    ([0b10010100, 0x34], .styZpx 0x34),
    ([0b10001100, 0x34, 0x12], .styAbs 0x34 0x12)] = true := rfl

theorem test_decode_transfers : decodesAll [
    ([0b10101010], .tax),
    ([0b10101000], .tay),
    ([0b10111010], .tsx),
    ([0b10001010], .txa),
    ([0b10011010], .txs),
    ([0b10011000], .tya)] = true := rfl

theorem test_decode_add_subtract : decodesAll [
    ([0b01101001, 0x34], .adcImm 0x34),
    ([0b01100101, 0x34], .adcZp 0x34),
    ([0b01110101, 0x34], .adcZpx 0x34),
    ([0b01101101, 0x34, 0x12], .adcAbs 0x34 0x12),
    ([0b01111101, 0x34, 0x12], .adcAbsx 0x34 0x12),
    ([0b01111001, 0x34, 0x12], .adcAbsy 0x34 0x12),
    ([0b01100001, 0x34], .adcIzx 0x34),
    ([0b01110001, 0x34], .adcIzy 0x34),
    ([0b11101001, 0x34], .sbcImm 0x34),
    ([0b11100101, 0x34], .sbcZp 0x34),
    ([0b11110101, 0x34], .sbcZpx 0x34),
    ([0b11101101, 0x34, 0x12], .sbcAbs 0x34 0x12),
    ([0b11111101, 0x34, 0x12], .sbcAbsx 0x34 0x12),
    ([0b11111001, 0x34, 0x12], .sbcAbsy 0x34 0x12),
    ([0b11100001, 0x34], .sbcIzx 0x34),
    ([0b11110001, 0x34], .sbcIzy 0x34)] = true := rfl

theorem test_decode_compare : decodesAll [
    ([0b11001001, 0x34], .cmpImm 0x34),
    ([0b11000101, 0x34], .cmpZp 0x34),
    ([0b11010101, 0x34], .cmpZpx 0x34),
    ([0b11001101, 0x34, 0x12], .cmpAbs 0x34 0x12),
    ([0b11011101, 0x34, 0x12], .cmpAbsx 0x34 0x12),
    ([0b11011001, 0x34, 0x12], .cmpAbsy 0x34 0x12),
    ([0b11000001, 0x34], .cmpIzx 0x34),
    ([0b11010001, 0x34], .cmpIzy 0x34),
    ([0b11100000, 0x34], .cpxImm 0x34),
    ([0b11100100, 0x34], .cpxZp 0x34),
    ([0b11101100, 0x34, 0x12], .cpxAbs 0x34 0x12),
    ([0b11000000, 0x34], .cpyImm 0x34),
    ([0b11000100, 0x34], .cpyZp 0x34),
    ([0b11001100, 0x34, 0x12], .cpyAbs 0x34 0x12)] = true := rfl

theorem test_decode_count : decodesAll [
    ([0b11100110, 0x34], .incZp 0x34),
    ([0b11110110, 0x34], .incZpx 0x34),
    ([0b11101110, 0x34, 0x12], .incAbs 0x34 0x12),
    ([0b11111110, 0x34, 0x12], .incAbsx 0x34 0x12),
    ([0b11000110, 0x34], .decZp 0x34),
    ([0b11010110, 0x34], .decZpx 0x34),
    ([0b11001110, 0x34, 0x12], .decAbs 0x34 0x12),
    ([0b11011110, 0x34, 0x12], .decAbsx 0x34 0x12),
    ([0b11101000], .inx),
    ([0b11001000], .iny),
    ([0b11001010], .dex),
    ([0b10001000], .dey)] = true := rfl

theorem test_decode_logic : decodesAll [
    ([0b00101001, 0x34], .andImm 0x34),
    ([0b00100101, 0x34], .andZp 0x34),
    ([0b00110101, 0x34], .andZpx 0x34),
    ([0b00101101, 0x34, 0x12], .andAbs 0x34 0x12),
    ([0b00111101, 0x34, 0x12], .andAbsx 0x34 0x12),
    ([0b00111001, 0x34, 0x12], .andAbsy 0x34 0x12),
    ([0b00100001, 0x34], .andIzx 0x34),
    ([0b00110001, 0x34], .andIzy 0x34),
    ([0b00001001, 0x34], .oraImm 0x34),
    ([0b00000101, 0x34], .oraZp 0x34),
    ([0b00010101, 0x34], .oraZpx 0x34),
    ([0b00001101, 0x34, 0x12], .oraAbs 0x34 0x12),
    ([0b00011101, 0x34, 0x12], .oraAbsx 0x34 0x12),
    ([0b00011001, 0x34, 0x12], .oraAbsy 0x34 0x12),
    ([0b00000001, 0x34], .oraIzx 0x34),
    ([0b00010001, 0x34], .oraIzy 0x34),
    ([0b01001001, 0x34], .eorImm 0x34),
    ([0b01000101, 0x34], .eorZp 0x34),
    ([0b01010101, 0x34], .eorZpx 0x34),
    ([0b01001101, 0x34, 0x12], .eorAbs 0x34 0x12),
    ([0b01011101, 0x34, 0x12], .eorAbsx 0x34 0x12),
    ([0b01011001, 0x34, 0x12], .eorAbsy 0x34 0x12),
    ([0b01000001, 0x34], .eorIzx 0x34),
    ([0b01010001, 0x34], .eorIzy 0x34),
    ([0b00100100, 0x34], .bitZp 0x34),
    ([0b00101100, 0x34, 0x12], .bitAbs 0x34 0x12)] = true := rfl

theorem test_decode_shift : decodesAll [
    ([0b00001010], .aslAcc),
    ([0b00000110, 0x34], .aslZp 0x34),
    ([0b00010110, 0x34], .aslZpx 0x34),
    ([0b00001110, 0x34, 0x12], .aslAbs 0x34 0x12),
    ([0b00011110, 0x34, 0x12], .aslAbsx 0x34 0x12),
    ([0b01001010], .lsrAcc),
    ([0b01000110, 0x34], .lsrZp 0x34),
    ([0b01010110, 0x34], .lsrZpx 0x34),
    ([0b01001110, 0x34, 0x12], .lsrAbs 0x34 0x12),
    ([0b01011110, 0x34, 0x12], .lsrAbsx 0x34 0x12)] = true := rfl

theorem test_decode_rotate : decodesAll [
    ([0b00101010], .rolAcc),
    ([0b00100110, 0x34], .rolZp 0x34),
    ([0b00110110, 0x34], .rolZpx 0x34),
    ([0b00101110, 0x34, 0x12], .rolAbs 0x34 0x12),
    ([0b00111110, 0x34, 0x12], .rolAbsx 0x34 0x12),
    ([0b01101010], .rorAcc),
    ([0b01100110, 0x34], .rorZp 0x34),
    ([0b01110110, 0x34], .rorZpx 0x34),
    ([0b01101110, 0x34, 0x12], .rorAbs 0x34 0x12),
    ([0b01111110, 0x34, 0x12], .rorAbsx 0x34 0x12)] = true := rfl

theorem test_decode_branch : decodesAll [
    ([0b00010000, 0x34], .bplRel 0x34),
    ([0b00110000, 0x34], .bmiRel 0x34),
    ([0b01010000, 0x34], .bvcRel 0x34),
    ([0b01110000, 0x34], .bvsRel 0x34),
    ([0b10010000, 0x34], .bccRel 0x34),
    ([0b10110000, 0x34], .bcsRel 0x34),
    ([0b11010000, 0x34], .bneRel 0x34),
    ([0b11110000, 0x34], .beqRel 0x34)] = true := rfl

theorem test_decode_jump : decodesAll [
    ([0b01001100, 0x34, 0x12], .jmpAbs 0x34 0x12),
    ([0b01101100, 0x34, 0x12], .jmpInd 0x34 0x12),
    ([0b00100000, 0x34, 0x12], .jsrAbs 0x34 0x12),
    ([0b01100000], .rts),
    ([0b00000000], .brk),
    ([0b01000000], .rti)] = true := rfl

theorem test_decode_stack_flags : decodesAll [
    ([0b01001000], .pha),
    ([0b00001000], .php),
    ([0b01101000], .pla),
    ([0b00101000], .plp),
    ([0b00011000], .clc),
    ([0b00111000], .sec),
    ([0b11011000], .cld),
    ([0b11111000], .sed),
    ([0b01011000], .cli),
    ([0b01111000], .sei),
    ([0b10111000], .clv),
    ([0b11101010], .nop)] = true := rfl

/-! ### Steps (95_test_vectors.md section 2) -/

/-- V-AM1: LDA zp. -/
theorem test_am1 : stepsTo (onRam (regsOf 0x00 0x00 0x00 0xFD 0x0200 0x30) [(0x0200, 0xA5), (0x0201, 0x10), (0x0010, 0x99)])
    [rd 0x0200 0xA5, rd 0x0201 0x10, rd 0x0010 0x99]
    (regsOf 0x99 0x00 0x00 0xFD 0x0202 0xB0) [] = true := rfl

/-- V-AM2: LDA zp,X wraps in page 0. -/
theorem test_am2 : stepsTo (onRam (regsOf 0x00 0x20 0x00 0xFD 0x0200 0x30) [(0x0200, 0xB5), (0x0201, 0xF0), (0x0010, 0x01)])
    [rd 0x0200 0xB5, rd 0x0201 0xF0, rd 0x00F0 0x00, rd 0x0010 0x01]
    (regsOf 0x01 0x20 0x00 0xFD 0x0202 0x30) [] = true := rfl

/-- V-AM3: LDX zp,Y. -/
theorem test_am3 : stepsTo (onRam (regsOf 0x00 0x00 0x01 0xFD 0x0200 0x30) [(0x0200, 0xB6), (0x0201, 0x80)])
    [rd 0x0200 0xB6, rd 0x0201 0x80, rd 0x0080 0x00, rd 0x0081 0x00]
    (regsOf 0x00 0x00 0x01 0xFD 0x0202 0x32) [] = true := rfl

/-- V-AM4: LDA abs. -/
theorem test_am4 : stepsTo (onRam (regsOf 0x00 0x00 0x00 0xFD 0x0200 0x30) [(0x0200, 0xAD), (0x0201, 0x34), (0x0202, 0x12), (0x1234, 0x7F)])
    [rd 0x0200 0xAD, rd 0x0201 0x34, rd 0x0202 0x12, rd 0x1234 0x7F]
    (regsOf 0x7F 0x00 0x00 0xFD 0x0203 0x30) [] = true := rfl

/-- V-AM5: LDA abs,X no cross. -/
theorem test_am5 : stepsTo (onRam (regsOf 0x00 0x05 0x00 0xFD 0x0200 0x30) [(0x0200, 0xBD), (0x0202, 0x12), (0x1205, 0x80)])
    [rd 0x0200 0xBD, rd 0x0201 0x00, rd 0x0202 0x12, rd 0x1205 0x80]
    (regsOf 0x80 0x05 0x00 0xFD 0x0203 0xB0) [] = true := rfl

/-- V-AM6: LDA abs,X page cross (+1). -/
theorem test_am6 : stepsTo (onRam (regsOf 0x00 0x01 0x00 0xFD 0x0200 0x30) [(0x0200, 0xBD), (0x0201, 0xFF), (0x0202, 0x12), (0x1300, 0x11)])
    [rd 0x0200 0xBD, rd 0x0201 0xFF, rd 0x0202 0x12, rd 0x1200 0x00, rd 0x1300 0x11]
    (regsOf 0x11 0x01 0x00 0xFD 0x0203 0x30) [] = true := rfl

/-- V-AM7: LDA abs,Y wraps 0xFFFF to 0x0000. -/
theorem test_am7 : stepsTo (onRam (regsOf 0x00 0x00 0x02 0xFD 0x0200 0x30) [(0x0200, 0xB9), (0x0201, 0xFF), (0x0202, 0xFF), (0x0001, 0x22)])
    [rd 0x0200 0xB9, rd 0x0201 0xFF, rd 0x0202 0xFF, rd 0xFF01 0x00, rd 0x0001 0x22]
    (regsOf 0x22 0x00 0x02 0xFD 0x0203 0x30) [] = true := rfl

/-- V-AM8: LDA (zp,X). -/
theorem test_am8 : stepsTo (onRam (regsOf 0x00 0x04 0x00 0xFD 0x0200 0x30) [(0x0200, 0xA1), (0x0201, 0x20), (0x0025, 0x30), (0x3000, 0x5A)])
    [rd 0x0200 0xA1, rd 0x0201 0x20, rd 0x0020 0x00, rd 0x0024 0x00, rd 0x0025 0x30, rd 0x3000 0x5A]
    (regsOf 0x5A 0x04 0x00 0xFD 0x0202 0x30) [] = true := rfl

/-- V-AM9: LDA (zp,X) pointer wraps at 0xFF. -/
theorem test_am9 : stepsTo (onRam (regsOf 0x00 0x01 0x00 0xFD 0x0200 0x30) [(0x0200, 0xA1), (0x0201, 0xFE), (0x0000, 0x40), (0x4000, 0x33)])
    [rd 0x0200 0xA1, rd 0x0201 0xFE, rd 0x00FE 0x00, rd 0x00FF 0x00, rd 0x0000 0x40, rd 0x4000 0x33]
    (regsOf 0x33 0x01 0x00 0xFD 0x0202 0x30) [] = true := rfl

/-- V-AM10: LDA (zp),Y no cross. -/
theorem test_am10 : stepsTo (onRam (regsOf 0x00 0x00 0x10 0xFD 0x0200 0x30) [(0x0200, 0xB1), (0x0201, 0x40), (0x0041, 0x50), (0x5010, 0x44)])
    [rd 0x0200 0xB1, rd 0x0201 0x40, rd 0x0040 0x00, rd 0x0041 0x50, rd 0x5010 0x44]
    (regsOf 0x44 0x00 0x10 0xFD 0x0202 0x30) [] = true := rfl

/-- V-AM11: LDA (zp),Y page cross (+1). -/
theorem test_am11 : stepsTo (onRam (regsOf 0x00 0x00 0x10 0xFD 0x0200 0x30) [(0x0200, 0xB1), (0x0201, 0x40), (0x0040, 0xF8), (0x0041, 0x50), (0x5108, 0x45)])
    [rd 0x0200 0xB1, rd 0x0201 0x40, rd 0x0040 0xF8, rd 0x0041 0x50, rd 0x5008 0x00, rd 0x5108 0x45]
    (regsOf 0x45 0x00 0x10 0xFD 0x0202 0x30) [] = true := rfl

/-- V-AM13: STA abs,X no cross: still 5. -/
theorem test_am13 : stepsTo (onRam (regsOf 0x55 0x01 0x00 0xFD 0x0200 0x30) [(0x0200, 0x9D), (0x0202, 0x20)])
    [rd 0x0200 0x9D, rd 0x0201 0x00, rd 0x0202 0x20, rd 0x2001 0x00, wr 0x2001 0x55]
    (regsOf 0x55 0x01 0x00 0xFD 0x0203 0x30) [(0x2001, 0x55)] = true := rfl

/-- V-AM14: STA abs,Y cross: 5. -/
theorem test_am14 : stepsTo (onRam (regsOf 0x56 0x00 0x01 0xFD 0x0200 0x30) [(0x0200, 0x99), (0x0201, 0xFF), (0x0202, 0x20)])
    [rd 0x0200 0x99, rd 0x0201 0xFF, rd 0x0202 0x20, rd 0x2000 0x00, wr 0x2100 0x56]
    (regsOf 0x56 0x00 0x01 0xFD 0x0203 0x30) [(0x2100, 0x56)] = true := rfl

/-- V-AM15: STA (zp),Y: always 6. -/
theorem test_am15 : stepsTo (onRam (regsOf 0x57 0x00 0x01 0xFD 0x0200 0x30) [(0x0200, 0x91), (0x0201, 0x40), (0x0041, 0x30)])
    [rd 0x0200 0x91, rd 0x0201 0x40, rd 0x0040 0x00, rd 0x0041 0x30, rd 0x3001 0x00, wr 0x3001 0x57]
    (regsOf 0x57 0x00 0x01 0xFD 0x0202 0x30) [(0x3001, 0x57)] = true := rfl

/-- V-AM16: STA (zp,X). -/
theorem test_am16 : stepsTo (onRam (regsOf 0x58 0x02 0x00 0xFD 0x0200 0x30) [(0x0200, 0x81), (0x0201, 0x40), (0x0043, 0x31)])
    [rd 0x0200 0x81, rd 0x0201 0x40, rd 0x0040 0x00, rd 0x0042 0x00, rd 0x0043 0x31, wr 0x3100 0x58]
    (regsOf 0x58 0x02 0x00 0xFD 0x0202 0x30) [(0x3100, 0x58)] = true := rfl

/-- V-AM18: INC zp,X: RMW 6. -/
theorem test_am18 : stepsTo (onRam (regsOf 0x00 0x01 0x00 0xFD 0x0200 0x30) [(0x0200, 0xF6), (0x0201, 0x10), (0x0011, 0x7F)])
    [rd 0x0200 0xF6, rd 0x0201 0x10, rd 0x0010 0x00, rd 0x0011 0x7F, wr 0x0011 0x7F, wr 0x0011 0x80]
    (regsOf 0x00 0x01 0x00 0xFD 0x0202 0xB0) [(0x0011, 0x80)] = true := rfl

/-- V-AM19: ASL abs: RMW 6. -/
theorem test_am19 : stepsTo (onRam (regsOf 0x00 0x00 0x00 0xFD 0x0200 0x30) [(0x0200, 0x0E), (0x0202, 0x30), (0x3000, 0x81)])
    [rd 0x0200 0x0E, rd 0x0201 0x00, rd 0x0202 0x30, rd 0x3000 0x81, wr 0x3000 0x81, wr 0x3000 0x02]
    (regsOf 0x00 0x00 0x00 0xFD 0x0203 0x31) [(0x3000, 0x02)] = true := rfl

/-- V-AM20: ROR abs,X: RMW 7, no cross. -/
theorem test_am20 : stepsTo (onRam (regsOf 0x00 0x01 0x00 0xFD 0x0200 0x31) [(0x0200, 0x7E), (0x0202, 0x30), (0x3001, 0x02)])
    [rd 0x0200 0x7E, rd 0x0201 0x00, rd 0x0202 0x30, rd 0x3001 0x02, rd 0x3001 0x02, wr 0x3001 0x02, wr 0x3001 0x81]
    (regsOf 0x00 0x01 0x00 0xFD 0x0203 0xB0) [(0x3001, 0x81)] = true := rfl

/-- V-AM21: DEC abs,X: RMW 7, cross. -/
theorem test_am21 : stepsTo (onRam (regsOf 0x00 0x01 0x00 0xFD 0x0200 0x30) [(0x0200, 0xDE), (0x0201, 0xFF), (0x0202, 0x30)])
    [rd 0x0200 0xDE, rd 0x0201 0xFF, rd 0x0202 0x30, rd 0x3000 0x00, rd 0x3100 0x00, wr 0x3100 0x00, wr 0x3100 0xFF]
    (regsOf 0x00 0x01 0x00 0xFD 0x0203 0xB0) [(0x3100, 0xFF)] = true := rfl

/-- V-LS1: LDA #$80 sets N. -/
theorem test_ls1 : stepsTo (onRam (regsOf 0x00 0x00 0x00 0xFD 0x0200 0x30) [(0x0200, 0xA9), (0x0201, 0x80)])
    [rd 0x0200 0xA9, rd 0x0201 0x80]
    (regsOf 0x80 0x00 0x00 0xFD 0x0202 0xB0) [] = true := rfl

/-- V-LS2: LDX #$00 sets Z. -/
theorem test_ls2 : stepsTo (onRam (regsOf 0x00 0x33 0x00 0xFD 0x0200 0x30) [(0x0200, 0xA2)])
    [rd 0x0200 0xA2, rd 0x0201 0x00]
    (regsOf 0x00 0x00 0x00 0xFD 0x0202 0x32) [] = true := rfl

/-- V-LS3: LDY abs,X cross. -/
theorem test_ls3 : stepsTo (onRam (regsOf 0x00 0x20 0x00 0xFD 0x0200 0x30) [(0x0200, 0xBC), (0x0201, 0xF0), (0x0202, 0x10), (0x1110, 0x01)])
    [rd 0x0200 0xBC, rd 0x0201 0xF0, rd 0x0202 0x10, rd 0x1010 0x00, rd 0x1110 0x01]
    (regsOf 0x00 0x20 0x01 0xFD 0x0203 0x30) [] = true := rfl

/-- V-LS4: STX zp,Y wraps. -/
theorem test_ls4 : stepsTo (onRam (regsOf 0x00 0xAB 0x02 0xFD 0x0200 0x30) [(0x0200, 0x96), (0x0201, 0xFF)])
    [rd 0x0200 0x96, rd 0x0201 0xFF, rd 0x00FF 0x00, wr 0x0001 0xAB]
    (regsOf 0x00 0xAB 0x02 0xFD 0x0202 0x30) [(0x0001, 0xAB)] = true := rfl

/-- V-LS5: STY abs. -/
theorem test_ls5 : stepsTo (onRam (regsOf 0x00 0x00 0x80 0xFD 0x0200 0x30) [(0x0200, 0x8C), (0x0202, 0x03)])
    [rd 0x0200 0x8C, rd 0x0201 0x00, rd 0x0202 0x03, wr 0x0300 0x80]
    (regsOf 0x00 0x00 0x80 0xFD 0x0203 0x30) [(0x0300, 0x80)] = true := rfl

/-- V-LS6: TSX after reset value. -/
theorem test_ls6 : stepsTo (onRam (regsOf 0x00 0x00 0x00 0xFD 0x0200 0x34) [(0x0200, 0xBA)])
    [rd 0x0200 0xBA, rd 0x0201 0x00]
    (regsOf 0x00 0xFD 0x00 0xFD 0x0201 0xB4) [] = true := rfl

/-- V-LS7: TXS sets no flag. -/
theorem test_ls7 : stepsTo (onRam (regsOf 0x00 0x00 0x00 0xFD 0x0200 0x30) [(0x0200, 0x9A)])
    [rd 0x0200 0x9A, rd 0x0201 0x00]
    (regsOf 0x00 0x00 0x00 0x00 0x0201 0x30) [] = true := rfl

/-- V-LS8: TYA zero. -/
theorem test_ls8 : stepsTo (onRam (regsOf 0x55 0x00 0x00 0xFD 0x0200 0xB0) [(0x0200, 0x98)])
    [rd 0x0200 0x98, rd 0x0201 0x00]
    (regsOf 0x00 0x00 0x00 0xFD 0x0201 0x32) [] = true := rfl

/-- V-LS9: TXA negative. -/
theorem test_ls9 : stepsTo (onRam (regsOf 0x00 0xFF 0x00 0xFD 0x0200 0x30) [(0x0200, 0x8A)])
    [rd 0x0200 0x8A, rd 0x0201 0x00]
    (regsOf 0xFF 0xFF 0x00 0xFD 0x0201 0xB0) [] = true := rfl

/-- V-LS10: TAY. -/
theorem test_ls10 : stepsTo (onRam (regsOf 0x01 0x00 0x00 0xFD 0x0200 0x30) [(0x0200, 0xA8)])
    [rd 0x0200 0xA8, rd 0x0201 0x00]
    (regsOf 0x01 0x00 0x01 0xFD 0x0201 0x30) [] = true := rfl

/-- V-AR1: ADC binary 0x50+0x50. -/
theorem test_ar1 : stepsTo (onRam (regsOf 0x50 0x00 0x00 0xFD 0x0200 0x30) [(0x0200, 0x69), (0x0201, 0x50)])
    [rd 0x0200 0x69, rd 0x0201 0x50]
    (regsOf 0xA0 0x00 0x00 0xFD 0x0202 0xF0) [] = true := rfl

/-- V-AR5: ADC decimal 0x99+0x01. -/
theorem test_ar5 : stepsTo (onRam (regsOf 0x99 0x00 0x00 0xFD 0x0200 0x38) [(0x0200, 0x69), (0x0201, 0x01)])
    [rd 0x0200 0x69, rd 0x0201 0x01]
    (regsOf 0x00 0x00 0x00 0xFD 0x0202 0xB9) [] = true := rfl

/-- V-AR14: SBC decimal 0x46-0x12. -/
theorem test_ar14 : stepsTo (onRam (regsOf 0x46 0x00 0x00 0xFD 0x0200 0x39) [(0x0200, 0xE9), (0x0201, 0x12)])
    [rd 0x0200 0xE9, rd 0x0201 0x12]
    (regsOf 0x34 0x00 0x00 0xFD 0x0202 0x39) [] = true := rfl

/-- V-AR16: SBC decimal 0x00-0x01. -/
theorem test_ar16 : stepsTo (onRam (regsOf 0x00 0x00 0x00 0xFD 0x0200 0x39) [(0x0200, 0xE9), (0x0201, 0x01)])
    [rd 0x0200 0xE9, rd 0x0201 0x01]
    (regsOf 0x99 0x00 0x00 0xFD 0x0202 0xB8) [] = true := rfl

/-- V-AR18: CMP less. -/
theorem test_ar18 : stepsTo (onRam (regsOf 0x40 0x00 0x00 0xFD 0x0200 0x30) [(0x0200, 0xC9), (0x0201, 0x41)])
    [rd 0x0200 0xC9, rd 0x0201 0x41]
    (regsOf 0x40 0x00 0x00 0xFD 0x0202 0xB0) [] = true := rfl

/-- V-AR20: CPX zp greater. -/
theorem test_ar20 : stepsTo (onRam (regsOf 0x00 0xFF 0x00 0xFD 0x0200 0x30) [(0x0200, 0xE4), (0x0201, 0x10), (0x0010, 0x01)])
    [rd 0x0200 0xE4, rd 0x0201 0x10, rd 0x0010 0x01]
    (regsOf 0x00 0xFF 0x00 0xFD 0x0202 0xB1) [] = true := rfl

/-- V-AR21: CPY abs. -/
theorem test_ar21 : stepsTo (onRam (regsOf 0x00 0x00 0x00 0xFD 0x0200 0x30) [(0x0200, 0xCC), (0x0202, 0x30)])
    [rd 0x0200 0xCC, rd 0x0201 0x00, rd 0x0202 0x30, rd 0x3000 0x00]
    (regsOf 0x00 0x00 0x00 0xFD 0x0203 0x33) [] = true := rfl

/-- V-AR22: DEC zp 0x00 wraps. -/
theorem test_ar22 : stepsTo (onRam (regsOf 0x00 0x00 0x00 0xFD 0x0200 0x30) [(0x0200, 0xC6), (0x0201, 0x10)])
    [rd 0x0200 0xC6, rd 0x0201 0x10, rd 0x0010 0x00, wr 0x0010 0x00, wr 0x0010 0xFF]
    (regsOf 0x00 0x00 0x00 0xFD 0x0202 0xB0) [(0x0010, 0xFF)] = true := rfl

/-- V-AR23: INX 0xFF wraps. -/
theorem test_ar23 : stepsTo (onRam (regsOf 0x00 0xFF 0x00 0xFD 0x0200 0x30) [(0x0200, 0xE8)])
    [rd 0x0200 0xE8, rd 0x0201 0x00]
    (regsOf 0x00 0x00 0x00 0xFD 0x0201 0x32) [] = true := rfl

/-- V-AR24: INY 0x7F. -/
theorem test_ar24 : stepsTo (onRam (regsOf 0x00 0x00 0x7F 0xFD 0x0200 0x30) [(0x0200, 0xC8)])
    [rd 0x0200 0xC8, rd 0x0201 0x00]
    (regsOf 0x00 0x00 0x80 0xFD 0x0201 0xB0) [] = true := rfl

/-- V-AR25: DEX 0x01. -/
theorem test_ar25 : stepsTo (onRam (regsOf 0x00 0x01 0x00 0xFD 0x0200 0x30) [(0x0200, 0xCA)])
    [rd 0x0200 0xCA, rd 0x0201 0x00]
    (regsOf 0x00 0x00 0x00 0xFD 0x0201 0x32) [] = true := rfl

/-- V-AR26: DEY 0x00. -/
theorem test_ar26 : stepsTo (onRam (regsOf 0x00 0x00 0x00 0xFD 0x0200 0x30) [(0x0200, 0x88)])
    [rd 0x0200 0x88, rd 0x0201 0x00]
    (regsOf 0x00 0x00 0xFF 0xFD 0x0201 0xB0) [] = true := rfl

/-- V-AR27: INC abs keeps C and V. -/
theorem test_ar27 : stepsTo (onRam (regsOf 0x00 0x00 0x00 0xFD 0x0200 0x71) [(0x0200, 0xEE), (0x0202, 0x30), (0x3000, 0x7F)])
    [rd 0x0200 0xEE, rd 0x0201 0x00, rd 0x0202 0x30, rd 0x3000 0x7F, wr 0x3000 0x7F, wr 0x3000 0x80]
    (regsOf 0x00 0x00 0x00 0xFD 0x0203 0xF1) [(0x3000, 0x80)] = true := rfl

/-- V-LG1: AND. -/
theorem test_lg1 : stepsTo (onRam (regsOf 0xF0 0x00 0x00 0xFD 0x0200 0x30) [(0x0200, 0x29), (0x0201, 0x3C)])
    [rd 0x0200 0x29, rd 0x0201 0x3C]
    (regsOf 0x30 0x00 0x00 0xFD 0x0202 0x30) [] = true := rfl

/-- V-LG3: ORA. -/
theorem test_lg3 : stepsTo (onRam (regsOf 0x0F 0x00 0x00 0xFD 0x0200 0x30) [(0x0200, 0x09), (0x0201, 0x80)])
    [rd 0x0200 0x09, rd 0x0201 0x80]
    (regsOf 0x8F 0x00 0x00 0xFD 0x0202 0xB0) [] = true := rfl

/-- V-LG4: EOR self. -/
theorem test_lg4 : stepsTo (onRam (regsOf 0xA5 0x00 0x00 0xFD 0x0200 0x30) [(0x0200, 0x49), (0x0201, 0xA5)])
    [rd 0x0200 0x49, rd 0x0201 0xA5]
    (regsOf 0x00 0x00 0x00 0xFD 0x0202 0x32) [] = true := rfl

/-- V-LG5: BIT zp N V from M. -/
theorem test_lg5 : stepsTo (onRam (regsOf 0x00 0x00 0x00 0xFD 0x0200 0x30) [(0x0200, 0x24), (0x0201, 0x10), (0x0010, 0xC0)])
    [rd 0x0200 0x24, rd 0x0201 0x10, rd 0x0010 0xC0]
    (regsOf 0x00 0x00 0x00 0xFD 0x0202 0xF2) [] = true := rfl

/-- V-LG6: BIT abs. -/
theorem test_lg6 : stepsTo (onRam (regsOf 0x01 0x00 0x00 0xFD 0x0200 0xF0) [(0x0200, 0x2C), (0x0202, 0x30), (0x3000, 0x01)])
    [rd 0x0200 0x2C, rd 0x0201 0x00, rd 0x0202 0x30, rd 0x3000 0x01]
    (regsOf 0x01 0x00 0x00 0xFD 0x0203 0x30) [] = true := rfl

/-- V-LG7: ASL A 0x80. -/
theorem test_lg7 : stepsTo (onRam (regsOf 0x80 0x00 0x00 0xFD 0x0200 0x30) [(0x0200, 0x0A)])
    [rd 0x0200 0x0A, rd 0x0201 0x00]
    (regsOf 0x00 0x00 0x00 0xFD 0x0201 0x33) [] = true := rfl

/-- V-LG8: LSR A 0x01. -/
theorem test_lg8 : stepsTo (onRam (regsOf 0x01 0x00 0x00 0xFD 0x0200 0xB0) [(0x0200, 0x4A)])
    [rd 0x0200 0x4A, rd 0x0201 0x00]
    (regsOf 0x00 0x00 0x00 0xFD 0x0201 0x33) [] = true := rfl

/-- V-LG9: ROL A with C. -/
theorem test_lg9 : stepsTo (onRam (regsOf 0x40 0x00 0x00 0xFD 0x0200 0x31) [(0x0200, 0x2A)])
    [rd 0x0200 0x2A, rd 0x0201 0x00]
    (regsOf 0x81 0x00 0x00 0xFD 0x0201 0xB0) [] = true := rfl

/-- V-LG10: ROR A with C. -/
theorem test_lg10 : stepsTo (onRam (regsOf 0x02 0x00 0x00 0xFD 0x0200 0x31) [(0x0200, 0x6A)])
    [rd 0x0200 0x6A, rd 0x0201 0x00]
    (regsOf 0x81 0x00 0x00 0xFD 0x0201 0xB0) [] = true := rfl

/-- V-LG12: LSR zp. -/
theorem test_lg12 : stepsTo (onRam (regsOf 0x00 0x00 0x00 0xFD 0x0200 0x30) [(0x0200, 0x46), (0x0201, 0x20), (0x0020, 0xFF)])
    [rd 0x0200 0x46, rd 0x0201 0x20, rd 0x0020 0xFF, wr 0x0020 0xFF, wr 0x0020 0x7F]
    (regsOf 0x00 0x00 0x00 0xFD 0x0202 0x31) [(0x0020, 0x7F)] = true := rfl

/-- V-LG13: ROL zp,X. -/
theorem test_lg13 : stepsTo (onRam (regsOf 0x00 0x01 0x00 0xFD 0x0200 0x30) [(0x0200, 0x36), (0x0201, 0x20), (0x0021, 0x80)])
    [rd 0x0200 0x36, rd 0x0201 0x20, rd 0x0020 0x00, rd 0x0021 0x80, wr 0x0021 0x80, wr 0x0021 0x00]
    (regsOf 0x00 0x01 0x00 0xFD 0x0202 0x33) [(0x0021, 0x00)] = true := rfl

/-- V-CT1: BNE not taken. -/
theorem test_ct1 : stepsTo (onRam (regsOf 0x00 0x00 0x00 0xFD 0x0200 0x32) [(0x0200, 0xD0), (0x0201, 0x10)])
    [rd 0x0200 0xD0, rd 0x0201 0x10]
    (regsOf 0x00 0x00 0x00 0xFD 0x0202 0x32) [] = true := rfl

/-- V-CT2: BNE taken, same page. -/
theorem test_ct2 : stepsTo (onRam (regsOf 0x00 0x00 0x00 0xFD 0x0200 0x30) [(0x0200, 0xD0), (0x0201, 0x10)])
    [rd 0x0200 0xD0, rd 0x0201 0x10, rd 0x0202 0x00]
    (regsOf 0x00 0x00 0x00 0xFD 0x0212 0x30) [] = true := rfl

/-- V-CT3: BEQ taken backward, page cross. -/
theorem test_ct3 : stepsTo (onRam (regsOf 0x00 0x00 0x00 0xFD 0x0200 0x32) [(0x0200, 0xF0), (0x0201, 0xFC)])
    [rd 0x0200 0xF0, rd 0x0201 0xFC, rd 0x0202 0x00, rd 0x02FE 0x00]
    (regsOf 0x00 0x00 0x00 0xFD 0x01FE 0x32) [] = true := rfl

/-- V-CT4: BCC taken to itself. -/
theorem test_ct4 : stepsTo (onRam (regsOf 0x00 0x00 0x00 0xFD 0x0200 0x30) [(0x0200, 0x90), (0x0201, 0xFE)])
    [rd 0x0200 0x90, rd 0x0201 0xFE, rd 0x0202 0x00]
    (regsOf 0x00 0x00 0x00 0xFD 0x0200 0x30) [] = true := rfl

/-- V-CT5: BMI taken, forward cross. -/
theorem test_ct5 : stepsTo (onRam (regsOf 0x00 0x00 0x00 0xFD 0x02F0 0xB0) [(0x02F0, 0x30), (0x02F1, 0x20)])
    [rd 0x02F0 0x30, rd 0x02F1 0x20, rd 0x02F2 0x00, rd 0x0212 0x00]
    (regsOf 0x00 0x00 0x00 0xFD 0x0312 0xB0) [] = true := rfl

/-- V-CT6: BVS not taken. -/
theorem test_ct6 : stepsTo (onRam (regsOf 0x00 0x00 0x00 0xFD 0x0200 0x30) [(0x0200, 0x70), (0x0201, 0x10)])
    [rd 0x0200 0x70, rd 0x0201 0x10]
    (regsOf 0x00 0x00 0x00 0xFD 0x0202 0x30) [] = true := rfl

/-- V-CT7: BPL taken offset 0. -/
theorem test_ct7 : stepsTo (onRam (regsOf 0x00 0x00 0x00 0xFD 0x0200 0x30) [(0x0200, 0x10)])
    [rd 0x0200 0x10, rd 0x0201 0x00, rd 0x0202 0x00]
    (regsOf 0x00 0x00 0x00 0xFD 0x0202 0x30) [] = true := rfl

/-- V-CT8: BCS taken. -/
theorem test_ct8 : stepsTo (onRam (regsOf 0x00 0x00 0x00 0xFD 0x0200 0x31) [(0x0200, 0xB0), (0x0201, 0x7F)])
    [rd 0x0200 0xB0, rd 0x0201 0x7F, rd 0x0202 0x00]
    (regsOf 0x00 0x00 0x00 0xFD 0x0281 0x31) [] = true := rfl

/-- V-CT9: BVC taken. -/
theorem test_ct9 : stepsTo (onRam (regsOf 0x00 0x00 0x00 0xFD 0x0200 0x30) [(0x0200, 0x50), (0x0201, 0x80)])
    [rd 0x0200 0x50, rd 0x0201 0x80, rd 0x0202 0x00, rd 0x0282 0x00]
    (regsOf 0x00 0x00 0x00 0xFD 0x0182 0x30) [] = true := rfl

/-- V-CT10: JMP abs. -/
theorem test_ct10 : stepsTo (onRam (regsOf 0x00 0x00 0x00 0xFD 0x0200 0x30) [(0x0200, 0x4C), (0x0202, 0xC0)])
    [rd 0x0200 0x4C, rd 0x0201 0x00, rd 0x0202 0xC0]
    (regsOf 0x00 0x00 0x00 0xFD 0xC000 0x30) [] = true := rfl

/-- V-CT11: JMP (abs). -/
theorem test_ct11 : stepsTo (onRam (regsOf 0x00 0x00 0x00 0xFD 0x0200 0x30) [(0x0200, 0x6C), (0x0201, 0x20), (0x0202, 0x01), (0x0120, 0x34), (0x0121, 0x12)])
    [rd 0x0200 0x6C, rd 0x0201 0x20, rd 0x0202 0x01, rd 0x0120 0x34, rd 0x0121 0x12]
    (regsOf 0x00 0x00 0x00 0xFD 0x1234 0x30) [] = true := rfl

/-- V-CT12: JMP (abs) page-wrap bug. -/
theorem test_ct12 : stepsTo (onRam (regsOf 0x00 0x00 0x00 0xFD 0x0200 0x30) [(0x0200, 0x6C), (0x0201, 0xFF), (0x0202, 0x10), (0x10FF, 0x34), (0x1000, 0x12)])
    [rd 0x0200 0x6C, rd 0x0201 0xFF, rd 0x0202 0x10, rd 0x10FF 0x34, rd 0x1000 0x12]
    (regsOf 0x00 0x00 0x00 0xFD 0x1234 0x30) [] = true := rfl

/-- V-CT13: JSR. -/
theorem test_ct13 : stepsTo (onRam (regsOf 0x00 0x00 0x00 0xFF 0x0200 0x30) [(0x0200, 0x20), (0x0202, 0x03)])
    [rd 0x0200 0x20, rd 0x0201 0x00, rd 0x01FF 0x00, wr 0x01FF 0x02, wr 0x01FE 0x02, rd 0x0202 0x03]
    (regsOf 0x00 0x00 0x00 0xFD 0x0300 0x30) [(0x01FF, 0x02), (0x01FE, 0x02)] = true := rfl

/-- V-CT14: JSR with S=0x00 wraps. -/
theorem test_ct14 : stepsTo (onRam (regsOf 0x00 0x00 0x00 0x00 0x0200 0x30) [(0x0200, 0x20), (0x0202, 0x03)])
    [rd 0x0200 0x20, rd 0x0201 0x00, rd 0x0100 0x00, wr 0x0100 0x02, wr 0x01FF 0x02, rd 0x0202 0x03]
    (regsOf 0x00 0x00 0x00 0xFE 0x0300 0x30) [(0x0100, 0x02), (0x01FF, 0x02)] = true := rfl

/-- V-CT15: RTS. -/
theorem test_ct15 : stepsTo (onRam (regsOf 0x00 0x00 0x00 0xFD 0x0300 0x30) [(0x0300, 0x60), (0x01FE, 0x02), (0x01FF, 0x02)])
    [rd 0x0300 0x60, rd 0x0301 0x00, rd 0x01FD 0x00, rd 0x01FE 0x02, rd 0x01FF 0x02, rd 0x0202 0x00]
    (regsOf 0x00 0x00 0x00 0xFF 0x0203 0x30) [] = true := rfl

/-- V-CT16: BRK. -/
theorem test_ct16 : stepsTo (onRam (regsOf 0x00 0x00 0x00 0xFF 0x0200 0x39) [(0x0201, 0xEA), (0xFFFF, 0x80)])
    [rd 0x0200 0x00, rd 0x0201 0xEA, wr 0x01FF 0x02, wr 0x01FE 0x02, wr 0x01FD 0x39, rd 0xFFFE 0x00, rd 0xFFFF 0x80]
    (regsOf 0x00 0x00 0x00 0xFC 0x8000 0x3D) [(0x01FF, 0x02), (0x01FE, 0x02), (0x01FD, 0x39)] = true := rfl

/-- V-CT17: RTI. -/
theorem test_ct17 : stepsTo (onRam (regsOf 0x00 0x00 0x00 0xFC 0x8000 0x34) [(0x8000, 0x40), (0x01FD, 0xFB), (0x01FE, 0x02), (0x01FF, 0x02)])
    [rd 0x8000 0x40, rd 0x8001 0x00, rd 0x01FC 0x00, rd 0x01FD 0xFB, rd 0x01FE 0x02, rd 0x01FF 0x02]
    (regsOf 0x00 0x00 0x00 0xFF 0x0202 0xFB) [] = true := rfl

/-- V-SF1: PHA. -/
theorem test_sf1 : stepsTo (onRam (regsOf 0x5A 0x00 0x00 0xFF 0x0200 0x30) [(0x0200, 0x48)])
    [rd 0x0200 0x48, rd 0x0201 0x00, wr 0x01FF 0x5A]
    (regsOf 0x5A 0x00 0x00 0xFE 0x0201 0x30) [(0x01FF, 0x5A)] = true := rfl

/-- V-SF2: PHA at S=0x00 wraps (Scenario E). -/
theorem test_sf2 : stepsTo (onRam (regsOf 0x77 0x00 0x00 0x00 0x0200 0x30) [(0x0200, 0x48)])
    [rd 0x0200 0x48, rd 0x0201 0x00, wr 0x0100 0x77]
    (regsOf 0x77 0x00 0x00 0xFF 0x0201 0x30) [(0x0100, 0x77)] = true := rfl

/-- V-SF3: PHP pushes B=1, bit5=1. -/
theorem test_sf3 : stepsTo (onRam (regsOf 0x00 0x00 0x00 0xFD 0x0200 0xFB) [(0x0200, 0x08)])
    [rd 0x0200 0x08, rd 0x0201 0x00, wr 0x01FD 0xFB]
    (regsOf 0x00 0x00 0x00 0xFC 0x0201 0xFB) [(0x01FD, 0xFB)] = true := rfl

/-- V-SF4: PLA. -/
theorem test_sf4 : stepsTo (onRam (regsOf 0x00 0x00 0x00 0xFE 0x0200 0x30) [(0x0200, 0x68), (0x01FF, 0x80)])
    [rd 0x0200 0x68, rd 0x0201 0x00, rd 0x01FE 0x00, rd 0x01FF 0x80]
    (regsOf 0x80 0x00 0x00 0xFF 0x0201 0xB0) [] = true := rfl

/-- V-SF5: PLA at S=0xFF wraps. -/
theorem test_sf5 : stepsTo (onRam (regsOf 0x00 0x00 0x00 0xFF 0x0200 0x30) [(0x0200, 0x68)])
    [rd 0x0200 0x68, rd 0x0201 0x00, rd 0x01FF 0x00, rd 0x0100 0x00]
    (regsOf 0x00 0x00 0x00 0x00 0x0201 0x32) [] = true := rfl

/-- V-SF6: PLP ignores bits 5,4. -/
theorem test_sf6 : stepsTo (onRam (regsOf 0x00 0x00 0x00 0xFE 0x0200 0x30) [(0x0200, 0x28), (0x01FF, 0x30)])
    [rd 0x0200 0x28, rd 0x0201 0x00, rd 0x01FE 0x00, rd 0x01FF 0x30]
    (regsOf 0x00 0x00 0x00 0xFF 0x0201 0x30) [] = true := rfl

/-- V-SF7: PLP all ones. -/
theorem test_sf7 : stepsTo (onRam (regsOf 0x00 0x00 0x00 0xFE 0x0200 0x30) [(0x0200, 0x28), (0x01FF, 0xFF)])
    [rd 0x0200 0x28, rd 0x0201 0x00, rd 0x01FE 0x00, rd 0x01FF 0xFF]
    (regsOf 0x00 0x00 0x00 0xFF 0x0201 0xFF) [] = true := rfl

/-- V-SF8: CLC. -/
theorem test_sf8 : stepsTo (onRam (regsOf 0x00 0x00 0x00 0xFD 0x0200 0xFF) [(0x0200, 0x18)])
    [rd 0x0200 0x18, rd 0x0201 0x00]
    (regsOf 0x00 0x00 0x00 0xFD 0x0201 0xFE) [] = true := rfl

/-- V-SF9: SEC. -/
theorem test_sf9 : stepsTo (onRam (regsOf 0x00 0x00 0x00 0xFD 0x0200 0x30) [(0x0200, 0x38)])
    [rd 0x0200 0x38, rd 0x0201 0x00]
    (regsOf 0x00 0x00 0x00 0xFD 0x0201 0x31) [] = true := rfl

/-- V-SF10: CLD. -/
theorem test_sf10 : stepsTo (onRam (regsOf 0x00 0x00 0x00 0xFD 0x0200 0x38) [(0x0200, 0xD8)])
    [rd 0x0200 0xD8, rd 0x0201 0x00]
    (regsOf 0x00 0x00 0x00 0xFD 0x0201 0x30) [] = true := rfl

/-- V-SF11: SED. -/
theorem test_sf11 : stepsTo (onRam (regsOf 0x00 0x00 0x00 0xFD 0x0200 0x30) [(0x0200, 0xF8)])
    [rd 0x0200 0xF8, rd 0x0201 0x00]
    (regsOf 0x00 0x00 0x00 0xFD 0x0201 0x38) [] = true := rfl

/-- V-SF12: CLI. -/
theorem test_sf12 : stepsTo (onRam (regsOf 0x00 0x00 0x00 0xFD 0x0200 0x34) [(0x0200, 0x58)])
    [rd 0x0200 0x58, rd 0x0201 0x00]
    (regsOf 0x00 0x00 0x00 0xFD 0x0201 0x30) [] = true := rfl

/-- V-SF13: SEI. -/
theorem test_sf13 : stepsTo (onRam (regsOf 0x00 0x00 0x00 0xFD 0x0200 0x30) [(0x0200, 0x78)])
    [rd 0x0200 0x78, rd 0x0201 0x00]
    (regsOf 0x00 0x00 0x00 0xFD 0x0201 0x34) [] = true := rfl

/-- V-SF14: CLV. -/
theorem test_sf14 : stepsTo (onRam (regsOf 0x00 0x00 0x00 0xFD 0x0200 0x70) [(0x0200, 0xB8)])
    [rd 0x0200 0xB8, rd 0x0201 0x00]
    (regsOf 0x00 0x00 0x00 0xFD 0x0201 0x30) [] = true := rfl

/-- V-SF15: NOP. -/
theorem test_sf15 : stepsTo (onRam (regsOf 0x00 0x00 0x00 0xFD 0x0200 0x30) [(0x0200, 0xEA)])
    [rd 0x0200 0xEA, rd 0x0201 0x00]
    (regsOf 0x00 0x00 0x00 0xFD 0x0201 0x30) [] = true := rfl

/-! ### Interrupts (95_test_vectors.md, E4 and V-IN1 to V-IN6) -/

/-- A machine with a line asserted by the host. -/
def withLines (s : State) (nmi irq : Bool) : State :=
  setHostLine (setHostLine s .nmi nmi) .irq irq

/-- NOPs at 0x0200, the NMI vector at 0x9000, the IRQ and BRK vector at 0x8000. -/
def interruptCells : List (Nat × Byte) :=
  [(0x0200, 0xEA), (0x0201, 0xEA), (0xFFFA, 0x00), (0xFFFB, 0x90), (0xFFFE, 0x00), (0xFFFF, 0x80)]

/-- V-IN1, step 1: NMI service. -/
theorem test_in1 : stepsTo (withLines (onRam (regsOf 0x00 0x00 0x00 0xFF 0x0200 0x30) interruptCells) true false)
    [rd 0x0200 0xEA, rd 0x0200 0xEA, wr 0x01FF 0x02, wr 0x01FE 0x00, wr 0x01FD 0x20, rd 0xFFFA 0x00, rd 0xFFFB 0x90]
    (regsOf 0x00 0x00 0x00 0xFC 0x9000 0x34) [] = true := rfl

/-- V-IN1, step 4: the line is still asserted and `nmi_prev` is 1, so the instruction runs. -/
theorem test_in1_held : stepsTo
    { withLines (onRam (regsOf 0x00 0x00 0x00 0xFF 0x0200 0x30) interruptCells) true false with nmiPrev := true }
    [rd 0x0200 0xEA, rd 0x0201 0xEA] (regsOf 0x00 0x00 0x00 0xFF 0x0201 0x30) [] = true := rfl

/-- V-IN2, step 2: with the line deasserted the sample sets `nmi_prev` to 0, so that a second edge can follow. -/
theorem test_in2_rearmed :
    (match step { onRam (regsOf 0x00 0x00 0x00 0xFC 0x0200 0x34) interruptCells with nmiPrev := true } with
      | .next t => !t.nmiPrev && decide ((withLines t true false).pendingService = some .nmi)
      | _ => false) = true := rfl

/-- V-IN3, step 1: NMI before IRQ. -/
theorem test_in3 : stepsTo (withLines (onRam (regsOf 0x00 0x00 0x00 0xFF 0x0200 0x30) interruptCells) true true)
    [rd 0x0200 0xEA, rd 0x0200 0xEA, wr 0x01FF 0x02, wr 0x01FE 0x00, wr 0x01FD 0x20, rd 0xFFFA 0x00, rd 0xFFFB 0x90]
    (regsOf 0x00 0x00 0x00 0xFC 0x9000 0x34) [] = true := rfl

/-- V-IN6: IRQ service, the pushes wrapping in the stack page, D kept. -/
theorem test_in6 : stepsTo (withLines (onRam (regsOf 0x00 0x00 0x00 0x01 0x0200 0x38) interruptCells) false true)
    [rd 0x0200 0xEA, rd 0x0200 0xEA, wr 0x0101 0x02, wr 0x0100 0x00, wr 0x01FF 0x28, rd 0xFFFE 0x00, rd 0xFFFF 0x80]
    (regsOf 0x00 0x00 0x00 0xFE 0x8000 0x3C) [(0x0101, 0x02), (0x0100, 0x00), (0x01FF, 0x28)] = true := rfl

/-- E4, step 1: IRQ with I = 1 is not serviced. -/
theorem test_e4_masked : stepsTo (withLines (onRam (regsOf 0x00 0x00 0x00 0xFF 0x0200 0x34) interruptCells) false true)
    [rd 0x0200 0xEA, rd 0x0201 0xEA] (regsOf 0x00 0x00 0x00 0xFF 0x0201 0x34) [] = true := rfl

/-! ### Faults (95_test_vectors.md, V-FT1 to V-FT10) -/

/-- V-FT1: an unimplemented opcode under `Halt`, after two cycles. -/
theorem test_ft1 : faultsTo { onHalf (regsOf 0x42 0x00 0x00 0xFD 0x0202 0x34) [(0x0202, 0x02)] with cycles := 2 }
    (.unimplementedOpcode 0x02 0x0202) [rd 0x0202 0x02] (regsOf 0x42 0x00 0x00 0xFD 0x0202 0x34)
    ⟨.unimplementedOpcode 0x02 0x0202, 0x0202, 3, 1⟩ = true := rfl

/-- V-FT2: a step while halted. -/
theorem test_ft2 : step halted = .fault (.unmappedAccess 0x9000 .write halted) := rfl

/-- V-FT3: an unimplemented opcode under `SubstituteNop`. -/
theorem test_ft3 :
    let s := { onHalf (regsOf 0x00 0x00 0x00 0xFD 0x0200 0x34) [(0x0200, 0x02), (0x0201, 0xEA)] with
      params := { Params.default with policy := .substituteNop } }
    stepsTo s [rd 0x0200 0x02, rd 0x0201 0xEA] (regsOf 0x00 0x00 0x00 0xFD 0x0201 0x34) [] = true ∧
    (match step s with | .next t => t.result.reports | _ => []) = [⟨0x02, 0x0200⟩] := ⟨rfl, rfl⟩

/-- V-FT5: an unmapped write. -/
theorem test_ft5 : faultsTo
    (onHalf (regsOf 0x55 0x00 0x00 0xFD 0x0200 0x34) [(0x0200, 0x8D), (0x0201, 0x00), (0x0202, 0x90)])
    (.unmappedAccess 0x9000 .write) [rd 0x0200 0x8D, rd 0x0201 0x00, rd 0x0202 0x90]
    (regsOf 0x55 0x00 0x00 0xFD 0x0200 0x34) ⟨.unmappedAccess 0x9000 .write, 0x0200, 4, 4⟩ = true := rfl

/-- V-FT6: an unmapped read of a read-modify-write. -/
theorem test_ft6 : faultsTo
    (onHalf (regsOf 0x00 0x00 0x00 0xFD 0x0200 0x34) [(0x0200, 0xEE), (0x0201, 0x00), (0x0202, 0x90)])
    (.unmappedAccess 0x9000 .read) [rd 0x0200 0xEE, rd 0x0201 0x00, rd 0x0202 0x90]
    (regsOf 0x00 0x00 0x00 0xFD 0x0200 0x34) ⟨.unmappedAccess 0x9000 .read, 0x0200, 4, 4⟩ = true := rfl

/-- V-FT7: JSR with page 1 unmapped. -/
theorem test_ft7 : faultsTo
    (onMap 0x8000 [⟨0x0000, 0x100, 0x0000⟩, ⟨0x0200, 0x5E00, 0x0200⟩] (regsOf 0x00 0x00 0x00 0xFF 0x0200 0x34)
      [(0x0200, 0x20)])
    (.unmappedAccess 0x01FF .read) [rd 0x0200 0x20, rd 0x0201 0x00]
    (regsOf 0x00 0x00 0x00 0xFF 0x0200 0x34) ⟨.unmappedAccess 0x01FF .read, 0x0200, 3, 3⟩ = true := rfl

/-- V-FT9: the dummy read of NOP at an unmapped address. -/
theorem test_ft9 : faultsTo (onHalf (regsOf 0x00 0x00 0x00 0xFD 0x7FFF 0x34) [(0x7FFF, 0xEA)])
    (.unmappedAccess 0x8000 .read) [rd 0x7FFF 0xEA]
    (regsOf 0x00 0x00 0x00 0xFD 0x7FFF 0x34) ⟨.unmappedAccess 0x8000 .read, 0x7FFF, 2, 2⟩ = true := rfl

/-- V-FT10: BRK with its vector unmapped; the three stack writes stay. -/
theorem test_ft10 :
    let s := onHalf (regsOf 0x00 0x00 0x00 0xFF 0x0200 0x30) []
    faultsTo s (.unmappedAccess 0xFFFE .read)
      [rd 0x0200 0x00, rd 0x0201 0x00, wr 0x01FF 0x02, wr 0x01FE 0x02, wr 0x01FD 0x30]
      (regsOf 0x00 0x00 0x00 0xFF 0x0200 0x30) ⟨.unmappedAccess 0xFFFE .read, 0x0200, 6, 6⟩ = true ∧
    (match step s with
      | .fault (.unmappedAccess _ _ t) => [t.bus.peek 0x01FF, t.bus.peek 0x01FE, t.bus.peek 0x01FD]
      | _ => []) = [some 0x02, some 0x02, some 0x30] := ⟨rfl, rfl⟩

/-! ### Host operations (95_test_vectors.md, E2, E6, V-RS1 to V-RS5) -/

/-- Whether `build` of these entries conflicts over this new range and this overlapped one. -/
def conflicts (entries : List (Range × AttachTarget)) (r : Range) (q : Option Range) : Bool :=
  match build .default entries with
  | .fault (.rangeConflict r' q') => decide (r' = r ∧ q' = q)
  | _ => false

/-- E2a to E2e. -/
theorem test_e2 :
    conflicts [(⟨0x0000, 8, 0⟩, .new (.ram 8 [])), (⟨0x0004, 8, 0⟩, .new (.ram 8 []))] ⟨0x0004, 8, 0⟩
      (some ⟨0x0000, 8, 0⟩) = true ∧
    answers (build .default [(⟨0x0000, 8, 0⟩, .new (.ram 8 [])), (⟨0x0008, 8, 0⟩, .new (.ram 8 []))]) = true ∧
    conflicts [(⟨0xFFF8, 9, 0⟩, .new (.ram 9 []))] ⟨0xFFF8, 9, 0⟩ none = true ∧
    conflicts [(⟨0x1000, 0, 0⟩, .new (.ram 8 []))] ⟨0x1000, 0, 0⟩ none = true ∧
    answers (build .default [(⟨0x0000, 0x800, 0⟩, .new (.ram 0x800 [])), (⟨0x0800, 0x800, 0⟩, .existing 0)]) =
      true := ⟨rfl, rfl, rfl, rfl, rfl⟩

/-- What a host read returns after host writes. -/
def readsBack (s : State) (writes : List (Word × Byte)) (a : Word) : Option Byte :=
  match writes with
  | [] =>
    match hostRead s a with
    | .next (v, _) => some v
    | _ => none
  | (b, v) :: rest =>
    match hostWrite s b v with
    | .next t => readsBack t rest a
    | _ => none

/-- E6a to E6e, the ROM of E6d with its first byte only. -/
theorem test_e6 :
    let ram := onMap 0x100 [⟨0x4000, 0x100, 0x0000⟩] State.reset.regs []
    let moved := onMap 0x100 [⟨0x4000, 0x80, 0x0080⟩] State.reset.regs []
    let rom := { State.reset with bus := ⟨[⟨⟨0xF000, 0x1000, 0x0000⟩, 0⟩], [.rom 0x1000 [(0, 0xEA)]], .idle⟩ }
    let mirrored := onMap 0x800 [⟨0x0000, 0x800, 0x0000⟩, ⟨0x0800, 0x800, 0x0000⟩] State.reset.regs []
    readsBack ram [(0x4010, 0x5A)] 0x4010 = some 0x5A ∧
    readsBack ram [(0x4010, 0x5A), (0x4010, 0xA5)] 0x4010 = some 0xA5 ∧
    readsBack moved [(0x4000, 0x11)] 0x4000 = some 0x11 ∧ moved.bus.resolve 0x4000 = some (0, 0x80) ∧
    readsBack rom [(0xF000, 0x00)] 0xF000 = some 0xEA ∧
    readsBack mirrored [(0x0801, 0x33)] 0x0001 = some 0x33 := ⟨rfl, rfl, rfl, rfl, rfl, rfl⟩

/-- A machine that has run, its reset vector 0x0200. -/
def beforeReset : State :=
  { onRam (regsOf 0x12 0x34 0x56 0x10 0x1234 0xFB) [(0xFFFD, 0x02)] with
    cycles := 99
    nmiPrev := true
    phase := .running }

/-- V-RS1: reset. -/
theorem test_rs1 : resetMachine beforeReset = .next { beforeReset with
    regs := regsOf 0x00 0x00 0x00 0xFD 0x0200 0x34
    nmiPrev := false
    cycles := 0 } := rfl

/-- V-RS3: reset of a halted machine. -/
theorem test_rs3 :
    (match resetMachine { onRam (regsOf 0x00 0x00 0x00 0xFD 0x0200 0x34) [(0xFFFD, 0x03)] with
        phase := .halted ⟨.unimplementedOpcode 0x02 0x0200, 0x0200, 1, 1⟩
        cycles := 1 } with
      | .next t => decide (t.regs = regsOf 0x00 0x00 0x00 0xFD 0x0300 0x34 ∧ t.phase = .running ∧ t.cycles = 0)
      | _ => false) = true := rfl

/-- Whether reset faults at this address, with the state of R902. -/
def resetFaultsAt (s : State) (a : Word) : Bool :=
  match resetMachine s with
  | .fault (.unmappedAccess b .read t) =>
    decide (b = a ∧ t.regs = regsOf 0x00 0x00 0x00 0xFD 0x0000 0x34 ∧
      t.phase = .halted ⟨.unmappedAccess a .read, 0x0000, 0, 0⟩ ∧ t.cycles = 0)
  | _ => false

/-- A map that holds 0xFFFC and not 0xFFFD. -/
def halfVector : State := onMap 0x10000 [⟨0x0000, 0xFFFD, 0x0000⟩] (regsOf 0x12 0x34 0x56 0x10 0x1234 0xFB) []

/-- V-RS4 and V-RS5: reset with its vector unmapped. -/
theorem test_rs4_rs5 :
    resetFaultsAt (onHalf (regsOf 0x12 0x34 0x56 0x10 0x1234 0xFB) []) 0xFFFC = true ∧
    resetFaultsAt halfVector 0xFFFD = true := ⟨rfl, rfl⟩

/-! ### Witnesses: for each statement with hypotheses, a state and operands that meet them -/

theorem next_of {o : StepOutcome} (h : answers o = true) : ∃ t, o = .next t := by
  cases o with
  | next t => exact ⟨t, rfl⟩
  | fault f => cases h
  | refused r => cases h

theorem replay_of {s : State} {cs : List BusCycle} (h : replays s cs = true) : ∃ b, s.bus.replay cs = some b := by
  rw [replays, Option.isSome_iff_exists] at h
  exact h

theorem faults_of {s : State} {cs : List BusCycle} {n : Nat} (h : faultsAt s cs n = true) :
    ∃ c b, cs[n]? = some c ∧ s.bus.replay (cs.take n) = some b ∧ b.mapped c.address = false := by
  unfold faultsAt at h
  split at h
  · next c b hc hb => exact ⟨c, b, hc, hb, by simpa using h⟩
  · cases h

/-- Memory all zero; A, X and Y not; D and I set. -/
def zeros : State := onRam (regsOf 0x11 0x01 0x02 0x80 0x0200 0x3C) []

/-- The same registers, page 2 mapped and nothing else. -/
def page2 : State := onPage2 (regsOf 0x11 0x01 0x02 0x80 0x0200 0x3C) []

/-- The same registers, the lower half mapped. -/
def lower : State := onHalf (regsOf 0x11 0x01 0x02 0x80 0x0200 0x3C) []

theorem reset_maps_all (a : Word) : State.reset.bus.mapped a = true := by
  have h := a.isLt
  have hc : Range.contains ⟨0#16, 65536, 0#16⟩ a = true := by
    simp [Range.contains]; omega
  simp [Bus.mapped, Bus.resolve, State.reset, hc]

theorem reset_inv : State.reset.Inv := ⟨rfl, rfl, rfl, by decide⟩

theorem zeros_inv : zeros.Inv := ⟨rfl, rfl, rfl, by decide⟩

theorem lower_inv : lower.Inv := ⟨rfl, rfl, rfl, by decide⟩

theorem witness_DecodeOfEncode : (Instr.staAbsx 0x34 0x12).wf = true := rfl

theorem witness_EncodeOfDecode : decode [0xA9, 0x42, 0x07] = .ok (.ldaImm 0x42, [0x07]) := rfl

theorem witness_UnimplementedOpcodesRefused : 0x02 ∈ unimplementedOpcodes ∧ 0xFF ∈ unimplementedOpcodes ∧
    0xEA ∉ unimplementedOpcodes := by decide

/-- An instruction of two bytes, and JSR, of whose bytes the fetch reads two. -/
theorem witness_StepRunsDecodedInstruction :
    (∃ (s : State) (b : Bus), s.Ready ∧ decode [0xA9, 0x42] = .ok (.ldaImm 0x42, []) ∧
      s.bus.replay (fetchReads s.regs.pc [0xA9, 0x42]) = some b) ∧
    ∃ (s : State) (b : Bus), s.Ready ∧ decode [0x20, 0x34, 0x12] = .ok (.jsrAbs 0x34 0x12, []) ∧
      s.bus.replay (fetchReads s.regs.pc ([0x20, 0x34, 0x12].take (fetchCycles (.jsrAbs 0x34 0x12)))) = some b :=
  ⟨⟨onRam zeros.regs [(0x0200, 0xA9), (0x0201, 0x42)], _, ready_of rfl, rfl, rfl⟩,
    onRam zeros.regs [(0x0200, 0x20), (0x0201, 0x34)], _, ready_of rfl, rfl, rfl⟩

/-- An edge, a held NMI with an IRQ, an IRQ alone, a masked one, none. -/
theorem witness_BoundarySampleDecides :
    let open_ := regsOf 0x00 0x00 0x00 0xFF 0x0200 0x30
    (withLines zeros true false).pendingService = some .nmi ∧
    { withLines (onRam open_ []) true true with nmiPrev := true }.pendingService = some .irq ∧
    (withLines (onRam open_ []) false true).pendingService = some .irq ∧
    (withLines zeros false true).pendingService = none ∧ zeros.pendingService = none := ⟨rfl, rfl, rfl, rfl, rfl⟩

/-- Both kinds complete; the first push, and the vector, at an unmapped address. -/
theorem witness_StepServicesInterrupt :
    let cs := fun vector : Word => [rd 0x0200 0x00, rd 0x0200 0x00, wr 0x0180 0x02, wr 0x017F 0x00, wr 0x017E 0x2C,
      rd vector 0x00, rd (vector + 1) 0x00]
    let irq := fun s : State => withLines { s with regs := { s.regs with i := false } } false true
    (withLines zeros true false).pendingService = some .nmi ∧ (irq zeros).pendingService = some .irq ∧
    (irq page2).pendingService = some .irq ∧ (irq lower).pendingService = some .irq ∧
    (∀ r, zeros.phase ≠ .halted r) ∧
    replays (withLines zeros true false) [rd 0x0200 0x00, rd 0x0200 0x00, wr 0x0180 0x02, wr 0x017F 0x00,
      wr 0x017E ((withLines zeros true false).regs.pByte false), rd 0xFFFA 0x00, rd 0xFFFB 0x00] = true ∧
    replays (irq zeros) (cs 0xFFFE) = true ∧ (irq zeros).regs.pByte false = 0x28 ∧
    faultsAt (irq page2) (cs 0xFFFE) 2 = true ∧ faultsAt (irq lower) (cs 0xFFFE) 5 = true :=
  ⟨rfl, rfl, rfl, rfl, fun _ h => (nomatch h), rfl, rfl, rfl, rfl, rfl⟩

theorem witness_HaltedUntilReset : ∃ (s : State) (report : FaultReport) (t : State), s.phase = .halted report ∧
    (fun _ : View => false) s.view = false ∧ 0 < 1 ∧ resetMachine s = .next t :=
  ⟨{ zeros with phase := .halted ⟨.unmappedAccess 0x9000 .write, 0x0200, 4, 4⟩ }, _, _, rfl, rfl, by decide, rfl⟩

theorem witness_UnimplementedOpcodeHalts : ∃ (s : State) (b : Bus), s.Ready ∧ s.params.policy = .halt ∧
    0x02 ∈ unimplementedOpcodes ∧ s.bus.read s.regs.pc = some (0x02, b) :=
  ⟨onRam zeros.regs [(0x0200, 0x02)], _, ready_of rfl, rfl, by decide, rfl⟩

/-- The second cycle of the substituted no-op mapped, and not. -/
theorem witness_UnimplementedOpcodeSubstituted :
    let sub := fun s : State => { s with params := { s.params with policy := .substituteNop } }
    let s := sub (onRam zeros.regs [(0x0200, 0xFF)])
    let t := sub (onHalf { zeros.regs with pc := 0x7FFF } [(0x7FFF, 0xFF)])
    s.Ready ∧ t.Ready ∧ s.params.policy = .substituteNop ∧ 0xFF ∈ unimplementedOpcodes ∧
    replays s [rd 0x0200 0xFF, rd 0x0201 0x00] = true ∧ faultsAt t [rd 0x7FFF 0xFF, rd 0x8000 0x00] 1 = true :=
  ⟨ready_of rfl, ready_of rfl, rfl, by decide, rfl, rfl⟩

/-- Both kinds of fault. -/
theorem witness_FaultRestoresTheBoundary :
    (∃ (s : State) (f : Fault), s.seq = .boundary ∧ (∀ r, s.phase ≠ .halted r) ∧ step s = .fault f) ∧
    ∃ (s : State) (t : State), s.seq = .boundary ∧ (∀ r, s.phase ≠ .halted r) ∧
      step s = .fault (.unimplementedOpcode 0x02 0x0200 t) :=
  ⟨⟨onHalf { zeros.regs with pc := 0x8000 } [], _, rfl, fun _ h => (nomatch h), rfl⟩,
    onRam zeros.regs [(0x0200, 0x02)], _, rfl, fun _ h => (nomatch h), rfl⟩

theorem witness_StepCountsItsCycles : ∃ s t : State, s.seq = .boundary ∧ step s = .next t :=
  ⟨zeros, _, rfl, rfl⟩

theorem witness_StepKeepsInvariant : ∃ s t : State, s.Inv ∧ step s = .next t := ⟨zeros, _, zeros_inv, rfl⟩

theorem witness_FaultStopsTheMachine : ∃ (s t : State) (k : FaultKind), s.Inv ∧ (∀ r, s.phase ≠ .halted r) ∧
    step s = .fault (k.toFault t) :=
  ⟨lower, _, .unmappedAccess 0xFFFE .read, lower_inv, fun _ h => (nomatch h), rfl⟩

theorem witness_ExecCompletesWhereMapped : ∃ s : State, ∀ a, s.bus.mapped a = true := ⟨State.reset, reset_maps_all⟩

theorem witness_ExecFaultsOnlyWhereUnmapped : ∃ (s : State) (f : Fault), exec (.ldaAbs 0x00 0x90) s = .fault f :=
  ⟨lower, _, rfl⟩

theorem witness_ExecCycleCounts : ∃ s t : State, exec (.ldaAbsx 0xFF 0x12) s = .next t := ⟨zeros, _, rfl⟩

theorem witness_ZeroPageReads : replays zeros [rd 0x0010 0x00] = true ∧ faultsAt page2 [rd 0x0010 0x00] 0 = true :=
  ⟨rfl, rfl⟩

/-- The sum below and past the end of page 0; each cycle unmapped. -/
theorem witness_ZeroPageIndexedReads :
    replays zeros [rd 0x00FE 0x00, rd 0x00FF 0x00] = true ∧ replays zeros [rd 0x00FF 0x00, rd 0x0000 0x00] = true ∧
    faultsAt page2 [rd 0x00FE 0x00, rd 0x00FF 0x00] 0 = true ∧
    faultsAt (onMap 0x100 [⟨0x0000, 0xFF, 0x0000⟩] zeros.regs []) [rd 0x00FE 0x00, rd 0x00FF 0x00] 1 = true :=
  ⟨rfl, rfl, rfl, rfl⟩

theorem witness_AbsoluteReads : replays zeros [rd 0x1234 0x00] = true ∧ faultsAt page2 [rd 0x1234 0x00] 0 = true :=
  ⟨rfl, rfl⟩

/-- X = 1: low bytes 0xFE and 0xFF, without and with the extra read; the wrap at 2^16; each cycle unmapped. -/
theorem witness_AbsoluteIndexedReads : zeros.regs.x = 0x01 ∧
    replays zeros [rd (word 0x12 0xFE + 1) 0x00] = true ∧
    replays zeros [rd (word 0x12 (0xFF + 1)) 0x00, rd (word 0x12 0xFF + 1) 0x00] = true ∧
    replays zeros [rd (word 0xFF (0xFF + 1)) 0x00, rd 0x0000 0x00] = true ∧
    faultsAt page2 [rd 0x12FF 0x00] 0 = true ∧ faultsAt page2 [rd 0x1200 0x00, rd 0x1300 0x00] 0 = true ∧
    faultsAt page2 [rd 0x0200 0x00, rd 0x0300 0x00] 1 = true := ⟨rfl, rfl, rfl, rfl, rfl, rfl, rfl⟩

/-- The pointer at 0x00FE, and at 0x00FF with its high byte at 0x0000; the operand unmapped. -/
theorem witness_IndexedIndirectReads :
    replays zeros [rd 0x00FD 0x00, rd 0x00FE 0x00, rd 0x00FF 0x00, rd 0x0000 0x00] = true ∧
    replays zeros [rd 0x00FE 0x00, rd 0x00FF 0x00, rd 0x0000 0x00, rd 0x0000 0x00] = true ∧
    faultsAt (onHalf zeros.regs [(0x0001, 0x90)])
      [rd 0x00FF 0x00, rd 0x0000 0x00, rd 0x0001 0x90, rd 0x9000 0x00] 3 = true ∧
    faultsAt page2 [rd 0x00FD 0x00, rd 0x00FE 0x00, rd 0x00FF 0x00, rd 0x0000 0x00] 0 = true := ⟨rfl, rfl, rfl, rfl⟩

/-- Y = 2: the pointer's low byte 0xFD and 0xFE, without and with the extra read; the operand unmapped. -/
theorem witness_IndirectIndexedReads : zeros.regs.y = 0x02 ∧
    replays (onRam zeros.regs [(0x0010, 0xFD)]) [rd 0x0010 0xFD, rd 0x0011 0x00, rd 0x00FF 0x00] = true ∧
    replays (onRam zeros.regs [(0x0010, 0xFE)])
      [rd 0x0010 0xFE, rd 0x0011 0x00, rd 0x0000 0x00, rd 0x0100 0x00] = true ∧
    faultsAt (onHalf zeros.regs [(0x0010, 0xFE), (0x0011, 0x7F)])
      [rd 0x0010 0xFE, rd 0x0011 0x7F, rd 0x7F00 0x00, rd 0x8000 0x00] 3 = true ∧
    faultsAt page2 [rd 0x0010 0xFD, rd 0x0011 0x00, rd 0x00FF 0x00] 0 = true := ⟨rfl, rfl, rfl, rfl, rfl⟩

theorem witness_DirectStores :
    replays zeros [wr 0x0010 0x11] = true ∧ faultsAt page2 [wr 0x0010 0x11] 0 = true ∧
    replays zeros [wr 0x1234 0x11] = true ∧ faultsAt page2 [wr 0x1234 0x11] 0 = true ∧
    replays zeros [rd 0x00FF 0x00, wr 0x0000 0x11] = true ∧ faultsAt page2 [rd 0x00FF 0x00, wr 0x0000 0x11] 0 = true :=
  ⟨rfl, rfl, rfl, rfl, rfl, rfl⟩

/-- Without and with a page cross, and the store itself unmapped. -/
theorem witness_IndexedStores :
    replays zeros [rd (word 0x12 0xFF) 0x00, wr 0x12FF 0x11] = true ∧
    replays zeros [rd (word 0x12 0x00) 0x00, wr 0x1300 0x11] = true ∧
    faultsAt lower [rd (word 0x7F 0x00) 0x00, wr 0x8000 0x11] 1 = true ∧
    replays zeros [rd 0x00FD 0x00, rd 0x00FE 0x00, rd 0x00FF 0x00, wr 0x0000 0x11] = true ∧
    faultsAt page2 [rd 0x00FD 0x00, rd 0x00FE 0x00, rd 0x00FF 0x00, wr 0x0000 0x11] 0 = true ∧
    replays zeros [rd 0x0010 0x00, rd 0x0011 0x00, rd 0x0002 0x00, wr 0x0002 0x11] = true ∧
    faultsAt (onHalf zeros.regs [(0x0010, 0xFE), (0x0011, 0x7F)])
      [rd 0x0010 0xFE, rd 0x0011 0x7F, rd 0x7F00 0x00, wr 0x8000 0x11] 3 = true := ⟨rfl, rfl, rfl, rfl, rfl, rfl, rfl⟩

theorem witness_ReadModifyWrites :
    replays zeros [rd 0x0010 0x00, wr 0x0010 0x00, wr 0x0010 (incByte 0x00 zeros.regs).1] = true ∧
    faultsAt page2 [rd 0x0010 0x00, wr 0x0010 0x00, wr 0x0010 0x01] 0 = true ∧
    replays zeros [rd 0x00FF 0x00, rd 0x0000 0x00, wr 0x0000 0x00, wr 0x0000 (aslByte 0x00 zeros.regs).1] = true ∧
    replays zeros [rd 0x1234 0x00, wr 0x1234 0x00, wr 0x1234 (decByte 0x00 zeros.regs).1] = true ∧
    replays zeros [rd (word 0x12 0x00) 0x00, rd 0x1300 0x00, wr 0x1300 0x00, wr 0x1300 (rorByte 0x00 zeros.regs).1] =
      true ∧
    faultsAt lower [rd (word 0x7F 0x00) 0x00, rd 0x8000 0x00, wr 0x8000 0x00, wr 0x8000 0x01] 1 = true :=
  ⟨rfl, rfl, rfl, rfl, rfl, rfl⟩

theorem witness_ImpliedAndAccumulator : replays zeros [rd zeros.regs.pc 0x00] = true ∧
    faultsAt { page2 with regs := { page2.regs with pc := 0x0300 } } [rd 0x0300 0x00] 0 = true := ⟨rfl, rfl⟩

/-- PCn = 0x0280, Z clear: not taken (BEQ); taken (BNE) to 0x02FF, in the page, and from 0x0281 to 0x0300, past it. -/
theorem witness_BranchResults :
    let at_ := fun pc : Word => { zeros with regs := { zeros.regs with pc := pc } }
    zeros.regs.z = false ∧ (0x0280 : Word) + sext 0x7F = 0x02FF ∧ (0x0281 : Word) + sext 0x7F = 0x0300 ∧
    replays (at_ 0x0280) [] = true ∧ replays (at_ 0x0280) [rd 0x0280 0x00] = true ∧
    replays (at_ 0x0281) [rd 0x0281 0x00, rd (word (hi8 (0x0281 : Word)) (lo8 (0x0300 : Word))) 0x00] = true ∧
    faultsAt { page2 with regs := { page2.regs with pc := 0x0300 } } [rd 0x0300 0x00] 0 = true :=
  ⟨rfl, rfl, rfl, rfl, rfl, rfl, rfl⟩

theorem witness_JumpAndSubroutineResults :
    replays zeros [rd (word 0x12 0xFF) 0x00, rd (word 0x12 (0xFF + 1)) 0x00] = true ∧
    faultsAt page2 [rd (word 0x12 0xFF) 0x00, rd (word 0x12 (0xFF + 1)) 0x00] 0 = true ∧
    replays zeros [rd 0x0180 0x00, wr 0x0180 0x02, wr 0x017F 0x00, rd 0x0200 0x00] = true ∧
    faultsAt page2 [rd 0x0180 0x00, wr 0x0180 0x02, wr 0x017F 0x00, rd 0x0200 0x00] 0 = true ∧
    replays zeros [rd 0x0200 0x00, rd 0x0180 0x00, rd 0x0181 0x00, rd 0x0182 0x00, rd 0x0000 0x00] = true ∧
    faultsAt (onHalf zeros.regs [(0x0182, 0x80)])
      [rd 0x0200 0x00, rd 0x0180 0x00, rd 0x0181 0x00, rd 0x0182 0x80, rd 0x8000 0x00] 4 = true :=
  ⟨rfl, rfl, rfl, rfl, rfl, rfl⟩

theorem witness_BreakAndReturnResults :
    replays zeros [rd 0x0200 0x00, wr 0x0180 0x02, wr 0x017F 0x01, wr 0x017E (zeros.regs.pByte true), rd 0xFFFE 0x00,
      rd 0xFFFF 0x00] = true ∧
    faultsAt lower [rd 0x0200 0x00, wr 0x0180 0x02, wr 0x017F 0x01, wr 0x017E 0x3C, rd 0xFFFE 0x00, rd 0xFFFF 0x00] 4 =
      true ∧
    replays zeros [rd 0x0200 0x00, rd 0x0180 0x00, rd 0x0181 0x00, rd 0x0182 0x00, rd 0x0183 0x00] = true ∧
    faultsAt page2 [rd 0x0200 0x00, rd 0x0180 0x00, rd 0x0181 0x00, rd 0x0182 0x00, rd 0x0183 0x00] 1 = true :=
  ⟨rfl, rfl, rfl, rfl⟩

theorem witness_PushAndPullResults :
    replays zeros [rd 0x0200 0x00, wr 0x0180 0x11] = true ∧ faultsAt page2 [rd 0x0200 0x00, wr 0x0180 0x11] 1 = true ∧
    replays zeros [rd 0x0200 0x00, rd 0x0180 0x00, rd 0x0181 0x00] = true ∧
    faultsAt page2 [rd 0x0200 0x00, rd 0x0180 0x00, rd 0x0181 0x00] 1 = true := ⟨rfl, rfl, rfl, rfl⟩

theorem witness_BinaryAddition : ∃ g : Regs, g.d = false := ⟨regsOf 0x7F 0x00 0x00 0xFD 0x0200 0x31, rfl⟩

/-- Valid digits at the end of their range, and an invalid one just past it. -/
theorem witness_DecimalAddition :
    let g := regsOf 0x99 0x00 0x00 0xFD 0x0200 0x39
    g.d = true ∧ g.a.toNat % 16 ≤ 9 ∧ g.a.toNat / 16 ≤ 9 ∧ (0x09 : Byte).toNat % 16 ≤ 9 ∧ (0x90 : Byte).toNat / 16 ≤ 9 ∧
    ¬(0x0A : Byte).toNat % 16 ≤ 9 := by decide

theorem witness_SubtractionLaws : ∃ g : Regs, g.d = false := ⟨regsOf 0x80 0x00 0x00 0xFD 0x0200 0x31, rfl⟩

theorem witness_DecimalSubtraction :
    let g := regsOf 0x00 0x00 0x00 0xFD 0x0200 0x38
    g.d = true ∧ g.a.toNat % 16 ≤ 9 ∧ g.a.toNat / 16 ≤ 9 ∧ (0x99 : Byte).toNat % 16 ≤ 9 ∧ (0x99 : Byte).toNat / 16 ≤ 9 :=
  by decide

/-- Each pusher and puller answers a next state. -/
theorem witness_StatusByteImage :
    (∃ t, exec .php zeros = .next t) ∧ (∃ t, exec .brk zeros = .next t) ∧ (∃ t, exec .plp zeros = .next t) ∧
    (∃ t, exec .rti zeros = .next t) ∧
    ∃ t, zeros.seq = .boundary ∧ (withLines zeros true false).pendingService = some .nmi ∧
      step (withLines zeros true false) = .next t :=
  ⟨⟨_, rfl⟩, ⟨_, rfl⟩, ⟨_, rfl⟩, ⟨_, rfl⟩, _, rfl, rfl, rfl⟩

/-- S at both ends of its range. -/
theorem witness_StackDiscipline :
    let at_ := fun v : Byte => { zeros with regs := { zeros.regs with s := v } }
    (∃ b, ((at_ 0x00).enter).m.bus.write (stackAddress 0x00) 0x55 = some b) ∧
    ∃ b b', (at_ 0xFF).enter.m.bus.read (stackAddress 0xFF) = some (0x00, b) ∧
      b.tick.read (stackAddress (0xFF + 1)) = some (0x00, b') := ⟨⟨_, rfl⟩, _, _, rfl, rfl⟩

/-- TAX; its opcode fetched, its dummy read mapped and not. -/
theorem witness_OneByteSteps :
    (onRam zeros.regs [(0x0200, 0xAA)]).Ready ∧
    replays (onRam zeros.regs [(0x0200, 0xAA)]) [rd 0x0200 0xAA, rd 0x0201 0x00] = true ∧
    faultsAt (onHalf { zeros.regs with pc := 0x7FFF } [(0x7FFF, 0xAA)]) [rd 0x7FFF 0xAA, rd 0x8000 0x00] 1 = true ∧
    faultsAt (onHalf { zeros.regs with pc := 0x8000 } []) [rd 0x8000 0xAA, rd 0x8001 0x00] 0 = true :=
  ⟨ready_of rfl, rfl, rfl, rfl⟩

/-- NOP, with PC at the end of the address space. -/
theorem witness_FlagSteps :
    (onRam { zeros.regs with pc := 0xFFFF } [(0xFFFF, 0xEA)]).Ready ∧
    replays (onRam { zeros.regs with pc := 0xFFFF } [(0xFFFF, 0xEA)]) [rd 0xFFFF 0xEA, rd (0xFFFF + 1) 0x00] = true ∧
    faultsAt (onHalf { zeros.regs with pc := 0x7FFF } [(0x7FFF, 0xEA)]) [rd 0x7FFF 0xEA, rd 0x8000 0x00] 1 = true :=
  ⟨ready_of rfl, rfl, rfl⟩

theorem witness_StackSteps :
    let code := fun op : Byte => onRam zeros.regs [(0x0200, op)]
    let page := fun op : Byte => onPage2 zeros.regs [(0x0200, op)]
    (code 0x48).Ready ∧ replays (code 0x48) [rd 0x0200 0x48, rd 0x0201 0x00, wr 0x0180 0x11] = true ∧
    faultsAt (page 0x48) [rd 0x0200 0x48, rd 0x0201 0x00, wr 0x0180 0x11] 2 = true ∧
    replays (code 0x08) [rd 0x0200 0x08, rd 0x0201 0x00, wr 0x0180 (zeros.regs.pByte true)] = true ∧
    replays (code 0x68) [rd 0x0200 0x68, rd 0x0201 0x00, rd 0x0180 0x00, rd 0x0181 0x00] = true ∧
    replays (code 0x28) [rd 0x0200 0x28, rd 0x0201 0x00, rd 0x0180 0x00, rd 0x0181 0x00] = true ∧
    faultsAt (page 0x28) [rd 0x0200 0x28, rd 0x0201 0x00, rd 0x0180 0x00, rd 0x0181 0x00] 2 = true ∧
    replays zeros [rd 0x0200 0x00, rd 0x0201 0x00, wr 0x0180 0x02, wr 0x017F 0x02, wr 0x017E (zeros.regs.pByte true),
      rd 0xFFFE 0x00, rd 0xFFFF 0x00] = true ∧
    faultsAt lower [rd 0x0200 0x00, rd 0x0201 0x00, wr 0x0180 0x02, wr 0x017F 0x02, wr 0x017E 0x3C, rd 0xFFFE 0x00,
      rd 0xFFFF 0x00] 5 = true ∧
    replays (code 0x40) [rd 0x0200 0x40, rd 0x0201 0x00, rd 0x0180 0x00, rd 0x0181 0x00, rd 0x0182 0x00, rd 0x0183 0x00] =
      true ∧
    faultsAt (page 0x40)
      [rd 0x0200 0x40, rd 0x0201 0x00, rd 0x0180 0x00, rd 0x0181 0x00, rd 0x0182 0x00, rd 0x0183 0x00] 2 = true :=
  ⟨ready_of rfl, rfl, rfl, rfl, rfl, rfl, rfl, rfl, rfl, rfl, rfl⟩

/-- Z clear: BEQ not taken; BNE taken in the page, backwards by 0x80 out of it, and across the end of the space. -/
theorem witness_BranchSteps :
    let code := fun op off : Byte => onRam zeros.regs [(0x0200, op), (0x0201, off)]
    zeros.regs.z = false ∧ (code 0xF0 0x7F).Ready ∧
    replays (code 0xF0 0x7F) [rd 0x0200 0xF0, rd 0x0201 0x7F] = true ∧
    BitVec.ofInt 16 (((0x0200 : Word) + 2).toNat + (0x7F : Byte).toInt) = 0x0281 ∧
    replays (code 0xD0 0x7F) [rd 0x0200 0xD0, rd 0x0201 0x7F, rd 0x0202 0x00] = true ∧
    BitVec.ofInt 16 (((0x0200 : Word) + 2).toNat + (0x80 : Byte).toInt) = 0x0182 ∧
    replays (code 0xD0 0x80) [rd 0x0200 0xD0, rd 0x0201 0x80, rd 0x0202 0x00,
      rd (word (hi8 (0x0202 : Word)) (lo8 (0x0182 : Word))) 0x00] = true ∧
    BitVec.ofInt 16 (((0xFFF0 : Word) + 2).toNat + (0x7F : Byte).toInt) = 0x0071 ∧
    faultsAt (onHalf { zeros.regs with pc := 0x7FFE } [(0x7FFE, 0xD0)])
      [rd 0x7FFE 0xD0, rd 0x7FFF 0x00, rd 0x8000 0x00] 2 = true :=
  ⟨rfl, ready_of rfl, rfl, rfl, rfl, rfl, rfl, rfl, rfl⟩

/-- JMP; JMP indirect with its pointer at the end of a page; JSR; RTS; each with its last address unmapped. -/
theorem witness_JumpSteps :
    let code := fun cells : List (Nat × Byte) => onRam zeros.regs cells
    let half := fun cells : List (Nat × Byte) => onHalf zeros.regs cells
    (code [(0x0200, 0x4C)]).Ready ∧ replays (code [(0x0200, 0x4C)]) [rd 0x0200 0x4C, rd 0x0201 0x00, rd 0x0202 0x00] = true ∧
    faultsAt (onHalf { zeros.regs with pc := 0x7FFE } [(0x7FFE, 0x4C)])
      [rd 0x7FFE 0x4C, rd 0x7FFF 0x00, rd 0x8000 0x00] 2 = true ∧
    replays (code [(0x0200, 0x6C), (0x0201, 0xFF), (0x0202, 0x12)]) [rd 0x0200 0x6C, rd 0x0201 0xFF, rd 0x0202 0x12,
      rd (word 0x12 0xFF) 0x00, rd (word 0x12 (0xFF + 1)) 0x00] = true ∧
    faultsAt (half [(0x0200, 0x6C), (0x0201, 0xFF), (0x0202, 0x92)]) [rd 0x0200 0x6C, rd 0x0201 0xFF, rd 0x0202 0x92,
      rd (word 0x92 0xFF) 0x00, rd (word 0x92 (0xFF + 1)) 0x00] 3 = true ∧
    replays (code [(0x0200, 0x20), (0x0202, 0x12)]) [rd 0x0200 0x20, rd 0x0201 0x00, rd 0x0180 0x00, wr 0x0180 0x02,
      wr 0x017F 0x02, rd 0x0202 0x12] = true ∧
    faultsAt (onPage2 zeros.regs [(0x0200, 0x20)]) [rd 0x0200 0x20, rd 0x0201 0x00, rd 0x0180 0x00, wr 0x0180 0x02,
      wr 0x017F 0x02, rd 0x0202 0x00] 2 = true ∧
    replays (code [(0x0200, 0x60)]) [rd 0x0200 0x60, rd 0x0201 0x00, rd 0x0180 0x00, rd 0x0181 0x00, rd 0x0182 0x00,
      rd 0x0000 0x00] = true ∧
    faultsAt (half [(0x0200, 0x60), (0x0182, 0x80)]) [rd 0x0200 0x60, rd 0x0201 0x00, rd 0x0180 0x00, rd 0x0181 0x00,
      rd 0x0182 0x80, rd 0x8000 0x00] 5 = true :=
  ⟨ready_of rfl, rfl, rfl, rfl, rfl, rfl, rfl, rfl, rfl⟩

/-- STY: in none of the five lists. -/
theorem witness_RegisterWriters : (∃ t, exec (.styZp 0x10) zeros = .next t) ∧
    mnemonic (.styZp 0x10) ∉ [Mnemonic.lda, .adc, .sbc, .and, .ora, .eor, .txa, .tya, .pla] ∧
    Instr.styZp 0x10 ∉ [Instr.aslAcc, .lsrAcc, .rolAcc, .rorAcc] ∧
    mnemonic (.styZp 0x10) ∉ [Mnemonic.ldx, .tax, .tsx, .inx, .dex] ∧
    mnemonic (.styZp 0x10) ∉ [Mnemonic.ldy, .tay, .iny, .dey] ∧
    mnemonic (.styZp 0x10) ∉ [Mnemonic.pha, .php, .jsr, .brk, .pla, .plp, .rts, .rti, .txs] ∧
    mnemonic (.styZp 0x10) ∉
      [Mnemonic.bpl, .bmi, .bvc, .bvs, .bcc, .bcs, .bne, .beq, .jmp, .jsr, .rts, .brk, .rti] :=
  ⟨⟨_, rfl⟩, by decide, by decide, by decide, by decide, by decide, by decide⟩

/-- STY, again in none of the five. -/
theorem witness_FlagWriters : (∃ t, exec (.styZp 0x10) zeros = .next t) ∧
    mnemonic (.styZp 0x10) ∉
      [Mnemonic.adc, .sbc, .cmp, .cpx, .cpy, .asl, .lsr, .rol, .ror, .clc, .sec, .plp, .rti] ∧
    mnemonic (.styZp 0x10) ∉ [Mnemonic.lda, .ldx, .ldy, .tax, .tay, .tsx, .txa, .tya, .pla, .and, .ora, .eor, .adc, .sbc,
      .inc, .dec, .inx, .iny, .dex, .dey, .asl, .lsr, .rol, .ror, .cmp, .cpx, .cpy, .bit, .plp, .rti] ∧
    mnemonic (.styZp 0x10) ∉ [Mnemonic.sei, .cli, .plp, .rti, .brk] ∧
    mnemonic (.styZp 0x10) ∉ [Mnemonic.sed, .cld, .plp, .rti] ∧
    mnemonic (.styZp 0x10) ∉ [Mnemonic.adc, .sbc, .bit, .clv, .plp, .rti] :=
  ⟨⟨_, rfl⟩, by decide, by decide, by decide, by decide, by decide⟩

theorem witness_NonStoringKeepMemory : ∃ t, exec (.ldaAbs 0x34 0x12) zeros = .next t ∧
    writesMemory (.ldaAbs 0x34 0x12) = false := ⟨_, rfl, rfl⟩

/-- STA $34,X: the byte it stores, another byte, and a mirror of it. -/
theorem witness_StoresKeepOtherMemory :
    let mirrored := onMap 0x800 [⟨0x0000, 0x800, 0x0000⟩, ⟨0x0800, 0x800, 0x0000⟩] zeros.regs []
    (∃ t, exec (.staZpx 0x34) zeros = .next t) ∧ zeros.bus.sameCell 0x0034 0x0035 = false ∧
    zeros.bus.sameCell 0x0035 0x0035 = true ∧ (∃ t, exec (.staZpx 0x34) mirrored = .next t) ∧
    mirrored.bus.sameCell 0x0835 0x0035 = true ∧ mirrored.bus.sameCell 0x0834 0x0035 = false :=
  ⟨⟨_, rfl⟩, rfl, rfl, ⟨_, rfl⟩, rfl, rfl⟩

/-- Each pusher; a byte just below and one just above those it writes. -/
theorem witness_PushesKeepOtherMemory :
    (∃ t, exec .pha zeros = .next t) ∧ (∃ t, exec .php zeros = .next t) ∧
    (∃ t, exec (.jsrAbs 0x34 0x12) zeros = .next t) ∧ (∃ t, exec .brk zeros = .next t) ∧
    (∀ k < 3, zeros.bus.sameCell 0x0181 (stackAddress (zeros.regs.s - BitVec.ofNat 8 k)) = false) ∧
    (∀ k < 3, zeros.bus.sameCell 0x017D (stackAddress (zeros.regs.s - BitVec.ofNat 8 k)) = false) ∧
    zeros.seq = .boundary ∧ (withLines zeros true false).pendingService = some .nmi ∧
    ∃ t, step (withLines zeros true false) = .next t :=
  ⟨⟨_, rfl⟩, ⟨_, rfl⟩, ⟨_, rfl⟩, ⟨_, rfl⟩, by decide, by decide, rfl, rfl, _, rfl⟩

theorem witness_MemoryCanonicalUnique : Memory.wf 8 [(0, 0x01), (7, 0xFF)] = true ∧
    ∀ l < 8, Memory.read [(0, 0x01), (7, 0xFF)] l = Memory.read [(0, 0x01), (7, 0xFF)] l := ⟨rfl, fun _ _ => rfl⟩

/-- A RAM at an offset and a ROM at the end of the space. -/
abbrev offsetBus : Bus :=
  ⟨[⟨⟨0x4000, 8, 0x0010⟩, 0⟩, ⟨⟨0xFFF8, 8, 0x0000⟩, 1⟩], [.ram 0x18 [(0x17, 0x5A)], .rom 8 []], .idle⟩

/-- Base, last address and the address past it of an entry with an offset; the end of the space; a hole; a cycle at a
mapped and at an unmapped address. -/
theorem witness_AddressMapAndTicks :
    offsetBus.wf = true ∧ ⟨⟨0x4000, 8, 0x0010⟩, 0⟩ ∈ offsetBus.map ∧
    offsetBus.resolve 0x4000 = some (0, 0x10) ∧ offsetBus.resolve 0x4007 = some (0, 0x17) ∧
    offsetBus.peek 0x4007 = some 0x5A ∧ offsetBus.resolve 0xFFFF = some (1, 7) ∧
    (∀ a ∈ [(0x3FFF : Word), 0x4008, 0xFFF7, 0x0000], ∀ e ∈ offsetBus.map,
      ¬(e.range.base.toNat ≤ a.toNat ∧ a.toNat < e.range.base.toNat + e.range.length)) ∧
    (∃ c, zeros.enter.m.bus.read 0x1234 = some (0x00, c)) ∧ (∃ c, zeros.enter.m.bus.write 0x1234 0x55 = some c) ∧
    page2.enter.m.bus.mapped 0x1234 = false :=
  ⟨rfl, by simp, rfl, rfl, rfl, rfl, by simp, ⟨_, rfl⟩, ⟨_, rfl⟩, rfl⟩

/-- A RAM with a mirror, a ROM, and nothing, at the ends of their ranges. -/
theorem witness_HostWriteThenRead :
    let s := { State.reset with bus := ⟨[⟨⟨0x0000, 8, 0⟩, 0⟩, ⟨⟨0x0008, 8, 0⟩, 0⟩, ⟨⟨0xFFF0, 0x10, 0⟩, 1⟩],
      [.ram 8 [], .rom 0x10 [(0, 0xEA)]], .idle⟩ }
    s.bus.wf = true ∧ (∀ r, s.phase ≠ .halted r) ∧
    s.bus.resolve 0x0007 = some (0, 7) ∧ s.bus.devices[0]? = some (.ram 8 []) ∧ s.bus.sameCell 0x000F 0x0007 = true ∧
    s.bus.resolve 0xFFFF = some (1, 0xF) ∧ s.bus.devices[1]? = some (.rom 0x10 [(0, 0xEA)]) ∧
    s.bus.resolve 0x0010 = none ∧ s.bus.resolve 0xFFEF = none :=
  ⟨rfl, fun _ h => (nomatch h), rfl, rfl, rfl, rfl, rfl, rfl, rfl⟩

/-- The four clauses: the vector mapped, its first byte not, its second not, and a RAM that holds both. -/
theorem witness_ResetState :
    (∃ b b', zeros.bus.read 0xFFFC = some (0x00, b) ∧ b.read 0xFFFD = some (0x00, b')) ∧
    lower.bus.mapped 0xFFFC = false ∧
    (∃ b, halfVector.bus.read 0xFFFC = some (0x00, b) ∧ b.mapped 0xFFFD = false) ∧
    beforeReset.bus.peek 0xFFFC = some 0x00 ∧ beforeReset.bus.peek 0xFFFD = some 0x02 :=
  ⟨⟨_, _, rfl, rfl⟩, rfl, ⟨_, rfl, rfl⟩, rfl, rfl⟩

/-- Running; empty; past the space; past the local space; overlapping by one address, one entry and two; touching and
declared, by a new device and by one attached; one byte past the device; no device; a build that goes on, and one
that has failed. -/
theorem witness_AttachConflicts :
    let s := onMap 8 [⟨0x0008, 8, 0⟩, ⟨0x0010, 8, 0⟩] State.reset.regs []
    beforeReset.phase ≠ .configuring ∧ s.phase = .configuring ∧
    (⟨0x1000, 0, 0⟩ : Range).length = 0 ∧ 0x10000 < (0xFFF8 : Word).toNat + 9 ∧ ¬0x10000 < (0xFFF8 : Word).toNat + 8 ∧
    0x10000 < (0xFFFF : Word).toNat + 2 ∧
    ((0x0001 : Word).toNat < (0x0008 : Word).toNat + 8 ∧ (0x0008 : Word).toNat < (0x0001 : Word).toNat + 8) ∧
    overlapped s.bus.map ⟨0x000F, 2, 0⟩ = some ⟨0x0008, 8, 0⟩ ∧
    ¬(0x0008 : Word).toNat < (0x0000 : Word).toNat + 8 ∧ ¬(0x0018 : Word).toNat < (0x0010 : Word).toNat + 8 ∧
    (AttachTarget.new (.ram 8 [])).accepts s.bus.devices ⟨0x0000, 8, 0⟩ = true ∧
    (AttachTarget.existing 0).accepts s.bus.devices ⟨0x0018, 8, 0⟩ = true ∧
    (AttachTarget.new (.ram 7 [])).accepts s.bus.devices ⟨0x0000, 8, 0⟩ = false ∧ s.bus.devices[1]? = none ∧
    (∃ m, build .default [(⟨0x0000, 8, 0⟩, .new (.ram 8 []))] = .next m) ∧
    ∀ m, build .default [(⟨0x1000, 0, 0⟩, .new (.ram 8 []))] ≠ .next m :=
  ⟨by decide, rfl, rfl, by decide, by decide, by decide, by decide, rfl, by decide, by decide, rfl, rfl, rfl, rfl,
    ⟨_, rfl⟩, fun _ h => (nomatch h)⟩

/-- Satisfied at the start, satisfied after a step, and a budget of one cycle spent. -/
theorem witness_RunUntilOvershoot :
    zeros.seq = .boundary ∧ (∃ t, runUntil (fun _ => true) 0 zeros = .satisfied 0 t) ∧
    (∃ t, runUntil (fun v => v.cycles == 7) 1 zeros = .satisfied 7 t) ∧
    ∃ t, runUntil (fun _ => false) 1 zeros = .budgetExhausted 7 t := ⟨rfl, ⟨_, rfl⟩, ⟨_, rfl⟩, _, rfl⟩

end Sys2Proof.Tests
end

section
/-! PROOFS. The status byte: its bits, the bytes that are pushed and pulled as it, and loading P (10_state.md
R111, R112). -/

namespace Sys2Proof.Machine

/-! ### The bits of the status byte -/

/-- A flag read back from the binary digit it is. -/
theorem decide_bit_eq_one {x : Nat} {f : Bool} (h : x = bit f) : decide (x = 1) = f := by
  subst h
  cases f <;> rfl

theorem bit_le_one (f : Bool) : bit f ≤ 1 := Bool.toNat_le f

/-- R111: the eight bits of `P_byte(b)`, each the binary digit its flag contributes. -/
theorem Regs.pByte_bits (g : Regs) (b : Bool) :
    (g.pByte b).getLsbD 7 = g.n ∧ (g.pByte b).getLsbD 6 = g.v ∧ (g.pByte b).getLsbD 5 = true ∧
      (g.pByte b).getLsbD 4 = b ∧ (g.pByte b).getLsbD 3 = g.d ∧ (g.pByte b).getLsbD 2 = g.i ∧
      (g.pByte b).getLsbD 1 = g.z ∧ (g.pByte b).getLsbD 0 = g.c := by
  have hn := bit_le_one g.n
  have hv := bit_le_one g.v
  have hb := bit_le_one b
  have hd := bit_le_one g.d
  have hi := bit_le_one g.i
  have hz := bit_le_one g.z
  have hc := bit_le_one g.c
  have one : bit true = 1 := rfl
  simp only [Regs.pByte, BitVec.getLsbD_ofNat, Nat.testBit_eq_decide_div_mod_eq, Nat.reduceLT, decide_true,
    Bool.true_and]
  refine ⟨?_, ?_, ?_, ?_, ?_, ?_, ?_, ?_⟩ <;> exact decide_bit_eq_one (by omega)

/-- R112: loading P ignores a change of the byte that leaves the bits of the six flags alone. -/
theorem Regs.loadP_congr (g : Regs) {v w : Byte}
    (h : ∀ k ∈ [7, 6, 3, 2, 1, 0], w.getLsbD k = v.getLsbD k) : g.loadP w = g.loadP v := by
  simp only [List.forall_mem_cons] at h
  obtain ⟨hn, hv, hd, hi, hz, hc, -⟩ := h
  simp only [Regs.loadP, hn, hv, hd, hi, hz, hc]

/-- A mask without the bits of the six flags changes nothing that loading P reads. -/
theorem Regs.loadP_xor (g : Regs) (v : Byte) {mask : Byte}
    (h : ∀ k ∈ [7, 6, 3, 2, 1, 0], mask.getLsbD k = false) : g.loadP (v ^^^ mask) = g.loadP v :=
  g.loadP_congr fun k hk => by rw [BitVec.getLsbD_xor, h k hk, Bool.xor_false]

/-! ### The cycles of a sequence that answered a next state -/

/-- A sequence that answered a next state made all the cycles it makes, with the bytes that were there to read. -/
theorem runSeq_next {m : M Unit} {s t : State} {accesses : List (Option Byte × Word)} {g : (Nat → Byte) → Regs}
    {l : (Nat → Byte) → Latches}
    (h : ∀ f, Tracks m s.regs s.enter.q.latch (fillReads accesses f) () (g f) (l f)) (ht : runSeq m s = .next t) :
    ∃ f, t.trace = s.enter.m.trace ++ fillReads accesses f ∧ t.regs = g f := by
  obtain ⟨f, b, -, rfl⟩ := fillReads_of_next (leaves := fun f b => s.after (fillReads accesses f) b (g f))
    (fun f => runSeq_tracks (h f)) ht
  exact ⟨f, rfl, rfl⟩

/-- A machine whose step answered a next state was not halted. -/
theorem active_of_step_next {s t : State} (h : step s = .next t) (r : FaultReport) : s.phase ≠ .halted r := by
  intro hr
  simp [step, hr, State.answerAgain] at h

/-- The step of a pending service is its sequence. -/
theorem step_service {s : State} {k : ServiceKind} (ha : ∀ r, s.phase ≠ .halted r) (hk : s.pendingService = some k) :
    step s = runFrom (serviceSequence k) s.enter.sampled := by
  rw [step_active ha, runSequence, hk]

/-- A service that completed made the cycles of its table, with the bytes that were there to read (60_exceptions.md
R821). -/
theorem service_next {s t : State} {k : ServiceKind} (hs : s.seq = .boundary) (hk : s.pendingService = some k)
    (ht : step s = .next t) :
    ∃ u v lo hi, t.trace = [rd s.regs.pc u, rd s.regs.pc v, wr (stackAddress s.regs.s) (hi8 s.regs.pc),
      wr (stackAddress (s.regs.s - 1)) (lo8 s.regs.pc), wr (stackAddress (s.regs.s - 1 - 1)) (s.regs.pByte false),
      rd k.vector lo, rd (k.vector + 1) hi] := by
  rw [step_service (active_of_step_next ht) hk] at ht
  obtain ⟨f, b, -, rfl⟩ := fillReads_of_next
    (run := fun s => runFrom (serviceSequence k) s.enter.sampled)
    (accesses := [(none, s.regs.pc), (none, s.regs.pc), (some (hi8 s.regs.pc), stackAddress s.regs.s),
      (some (lo8 s.regs.pc), stackAddress (s.regs.s - 1)),
      (some (s.regs.pByte false), stackAddress (s.regs.s - 1 - 1)), (none, k.vector), (none, k.vector + 1)])
    (fun f => runFrom_sampled_tracks hs (by simp [fillReads])
      (serviceSequence_tracks k (f 0) (f 1) (f 5) (f 6) s.regs .fresh)) ht
  exact ⟨f 0, f 1, f 5, f 6, rfl⟩

/-! ### Who pushes which image, and who loads what it pulls -/

/-- The last cycle of a push instruction is its push (46_stack_flags_misc.md R700, R701). -/
theorem pushInstr_next {byte : Regs → Byte} {s t : State} (ht : runSeq (pushInstr byte) s = .next t) :
    ∃ u, t.trace = s.enter.m.trace ++ [rd s.regs.pc u, wr (stackAddress s.regs.s) (byte s.regs)] := by
  obtain ⟨f, htrace, -⟩ := runSeq_next
    (accesses := [(none, s.regs.pc), (some (byte s.regs), stackAddress s.regs.s)])
    (fun f => pushInstr_tracks byte (f 0) s.regs s.enter.q.latch) ht
  exact ⟨f 0, htrace⟩

/-- The last cycle of a pull instruction reads the byte it operates on (46_stack_flags_misc.md R702, R703). -/
theorem pullInstr_next {op : Byte → Regs → Regs} {s t : State} (ht : runSeq (pullInstr op) s = .next t) :
    ∃ u v w, t.trace = s.enter.m.trace ++ [rd s.regs.pc u, rd (stackAddress s.regs.s) v,
      rd (stackAddress (s.regs.s + 1)) w] ∧ t.regs = op w { s.regs with s := s.regs.s + 1 } := by
  obtain ⟨f, htrace, hregs⟩ := runSeq_next
    (accesses := [(none, s.regs.pc), (none, stackAddress s.regs.s), (none, stackAddress (s.regs.s + 1))])
    (fun f => pullInstr_tracks op (f 0) (f 1) (f 2) s.regs s.enter.q.latch) ht
  exact ⟨f 0, f 1, f 2, htrace, hregs⟩

/-- The cycles of a BRK that completed (45_control.md R664). -/
theorem brk_next {s t : State} (ht : exec .brk s = .next t) :
    ∃ u lo hi, t.trace = s.enter.m.trace ++ [rd s.regs.pc u, wr (stackAddress s.regs.s) (hi8 (s.regs.pc + 1)),
      wr (stackAddress (s.regs.s - 1)) (lo8 (s.regs.pc + 1)),
      wr (stackAddress (s.regs.s - 1 - 1)) (s.regs.pByte true), rd irqVector lo, rd (irqVector + 1) hi] := by
  obtain ⟨f, htrace, -⟩ := runSeq_next
    (accesses := [(none, s.regs.pc), (some (hi8 (s.regs.pc + 1)), stackAddress s.regs.s),
      (some (lo8 (s.regs.pc + 1)), stackAddress (s.regs.s - 1)),
      (some (s.regs.pByte true), stackAddress (s.regs.s - 1 - 1)), (none, irqVector), (none, irqVector + 1)])
    (fun f => brk_tracks (f 0) (f 4) (f 5) s.regs s.enter.q.latch) ht
  exact ⟨f 0, f 4, f 5, htrace⟩

/-- The cycles of an RTI that completed, and the registers it leaves (45_control.md R665). -/
theorem rti_next {s t : State} (ht : exec .rti s = .next t) :
    ∃ u v p lo hi, t.trace = s.enter.m.trace ++ [rd s.regs.pc u, rd (stackAddress s.regs.s) v,
      rd (stackAddress (s.regs.s + 1)) p, rd (stackAddress (s.regs.s + 1 + 1)) lo,
      rd (stackAddress (s.regs.s + 1 + 1 + 1)) hi] ∧
      t.regs = { s.regs.loadP p with s := s.regs.s + 1 + 1 + 1, pc := word hi lo } := by
  obtain ⟨f, htrace, hregs⟩ := runSeq_next
    (accesses := [(none, s.regs.pc), (none, stackAddress s.regs.s), (none, stackAddress (s.regs.s + 1)),
      (none, stackAddress (s.regs.s + 1 + 1)), (none, stackAddress (s.regs.s + 1 + 1 + 1))])
    (fun f => rti_tracks (f 0) (f 1) (f 2) (f 3) (f 4) s.regs s.enter.q.latch) ht
  exact ⟨f 0, f 1, f 2, f 3, f 4, htrace, hregs⟩

/-- Settles O43: the bits of the image, then each pusher and puller from the cycles it made. -/
theorem statusByteImage : Obligations.StatusByteImage := by
  unfold Obligations.StatusByteImage
  refine ⟨Regs.pByte_bits, ?php, ?brk, ?service, ?loadP, ?plp, ?rti⟩
  case php =>
    intro s t ht
    obtain ⟨u, htrace⟩ := pushInstr_next (byte := fun g => g.pByte true) ht
    simp [htrace, wr]
  case brk =>
    intro s t ht
    obtain ⟨u, lo, hi, htrace⟩ := brk_next ht
    simp [htrace, wr]
  case service =>
    intro s t k hs hk ht
    obtain ⟨u, v, lo, hi, htrace⟩ := service_next hs hk ht
    simp [htrace, wr]
  case loadP =>
    intro g v
    exact ⟨rfl, g.loadP_xor v (by decide), g.loadP_xor v (by decide)⟩
  case plp =>
    intro s t ht
    obtain ⟨u, v, w, htrace, hregs⟩ := pullInstr_next (op := fun v g => g.loadP v) ht
    exact ⟨w, by simp [htrace, rd], hregs⟩
  case rti =>
    intro s t ht
    obtain ⟨u, v, p, lo, hi, htrace, hregs⟩ := rti_next ht
    have hs : s.regs.s + 1 + 1 + 1 = s.regs.s + 3 := by simp only [BitVec.add_assoc]; rfl
    exact ⟨p, by simp [htrace, rd], by rw [hregs, hs]⟩

end Sys2Proof.Machine
end

section
/-! The stack discipline of 20_memory.md R210 and R211. -/

namespace Sys2Proof.Machine

/-- What a part of a sequence answers from any run whose bus replays its cycles. -/
theorem Tracks.run {α : Type} {m : M α} {r : Run} {cs : List BusCycle} {v : α} {g : Regs} {l : Latches} {b : Bus}
    (h : Tracks m r.m.regs r.q.latch cs v g l) (hb : r.m.bus.replay cs = some b) : m r = .ok v (r.went cs b g l) := by
  have hr := (h r [] r.m.bus).1 b hb
  rwa [Run.went_nil] at hr

/-- R210: as numbers, both are 256 and the byte, which does not carry. -/
theorem stackAddress_eq_add (s : Byte) : stackAddress s = 0x0100 + zext s := by
  refine BitVec.eq_of_toNat_eq ?_
  rw [stackAddress, word_toNat, zext]
  bv_omega

/-- A pull: the discarded read at S, then the read at S + 1, which S then is. -/
theorem pull_tracks (u v : Byte) (g : Regs) (l : Latches) :
    Tracks (do beginPull; readStack) g l [rd (stackAddress g.s) u, rd (stackAddress (g.s + 1)) v] v
      { g with s := g.s + 1 } l :=
  (beginPull_tracks u g l).bind (readStack_tracks v _ l)

/-- Settles O44: the cycles of a push and of a pull, replayed on the run's own bus. -/
theorem stackDiscipline : Obligations.StackDiscipline := by
  unfold Obligations.StackDiscipline
  refine ⟨stackAddress_eq_add, by decide, by decide, ?push, ?pull⟩
  case push =>
    intro r v b hw
    have hb : r.m.bus.replay [wr (stackAddress r.m.regs.s) v] = some b.tick :=
      (Bus.replay_wr _ _ _ _ _).mpr ⟨b, hw, rfl⟩
    exact ⟨_, (push_tracks v r.m.regs r.q.latch).run hb, rfl, rfl⟩
  case pull =>
    intro r u v b b' hu hv
    have hb : r.m.bus.replay [rd (stackAddress r.m.regs.s) u, rd (stackAddress (r.m.regs.s + 1)) v] = some b'.tick :=
      (Bus.replay_rd _ _ _ _ _).mpr ⟨b, hu, (Bus.replay_rd _ _ _ _ _).mpr ⟨b', hv, rfl⟩⟩
    exact ⟨_, (pull_tracks u v r.m.regs r.q.latch).run hb, rfl, rfl⟩

end Sys2Proof.Machine
end

section
/-! PROOFS. The example of 30_encoding.md R310: a load immediate, its two bytes and what it loads. -/

namespace Sys2Proof.Machine

/-- R453: an immediate read makes no cycle of its own after the fetch, so it answers in every state. -/
theorem runSeq_readImm (b1 : Byte) (op : Byte → Regs → Regs) (s : State) :
    runSeq (readImm b1 op) s = .next (s.after [] s.bus (op b1 s.regs)) :=
  (runSeq_tracks (readImm_tracks b1 op s.regs s.enter.q.latch)).1 s.bus ((Bus.replay_nil _ _).mpr rfl)

theorem exec_ldaImm (b1 : Byte) (s : State) :
    exec (.ldaImm b1) s = .next (s.after [] s.bus (Regs.lda b1 s.regs)) :=
  runSeq_readImm b1 Regs.lda s

@[simp] theorem Regs.lda_a (m : Byte) (g : Regs) : (Regs.lda m g).a = m := rfl

/-- Settles O5: the encoder and the decoder evaluate on the two bytes; the load is `exec_ldaImm`. -/
theorem loadImmediateWord : Obligations.LoadImmediateWord := by
  unfold Obligations.LoadImmediateWord
  refine ⟨rfl, rfl, rfl, ?load⟩
  case load =>
    intro s
    exact ⟨_, exec_ldaImm 0x42 s, by rw [State.after_regs, Regs.lda_a]⟩

end Sys2Proof.Machine
end

section
/-! PROOFS. A halted machine, until reset (40_cycle_engine.md R423): what each operation answers while the phase is
`Halted`, and what a reset that succeeds leaves. -/

namespace Sys2Proof.Machine

/-! ### Each operation in phase Halted -/

section Halted

variable {s : State} {report : FaultReport}

theorem step_halted (h : s.phase = .halted report) : step s = .fault (report.kind.toFault s) := by
  simp only [step, h, State.answerAgain]

/-- A fault answered with a halted machine counts the cycles of that machine's report. -/
theorem FaultKind.toFault_cyclesInStep (k : FaultKind) (h : s.phase = .halted report) :
    (k.toFault s).cyclesInStep = report.cyclesInStep := by
  cases k <;> simp only [FaultKind.toFault, Fault.cyclesInStep, h]

theorem attach_halted (h : s.phase = .halted report) (r : Range) (target : AttachTarget) :
    attach s r target = .refused .notConfiguring := by
  simp only [attach, h]

theorem hostRead_halted (h : s.phase = .halted report) (a : Word) : hostRead s a = .refused .machineHalted := by
  simp only [hostRead, h]

theorem hostWrite_halted (h : s.phase = .halted report) (a : Word) (v : Byte) :
    hostWrite s a v = .refused .machineHalted := by
  simp only [hostWrite, h]

theorem loadRegs_halted (h : s.phase = .halted report) (g : Regs) : loadRegs s g = .refused .machineHalted := by
  simp only [loadRegs, h]

end Halted

/-! ### A run whose first step faults, a line change, and reset -/

/-- A run that takes a step takes its first from the state it starts in, and a fault of that step stops it. -/
theorem runUntil_stopped {s : State} {f : Fault} {pred : View → Bool} {budget : Nat} (hpred : pred s.view = false)
    (hbudget : 0 < budget) (hstep : step s = .fault f) : runUntil pred budget s = .stopped f f.cyclesInStep := by
  simp [runUntil, runLoop, hpred, Nat.ne_of_gt hbudget, hstep]

@[simp] theorem setHostLine_phase (s : State) (line : ServiceKind) (level : Bool) :
    (setHostLine s line level).phase = s.phase := rfl

@[simp] theorem State.resetRegs_phase (s : State) : s.resetRegs.phase = s.phase.afterReset := rfl

/-- A reset that succeeds has read both bytes of its vector, and leaves PC there (70_reset_and_hazards.md R901). -/
theorem resetMachine_next {s t : State} (h : resetMachine s = .next t) :
    ∃ lo hi b b', s.bus.read resetVector = some (lo, b) ∧ b.read (resetVector + 1) = some (hi, b') ∧
      t = { s.resetRegs with bus := b', regs := { s.resetRegs.regs with pc := word hi lo } } := by
  simp only [resetMachine] at h
  split at h
  · simp [State.resetFault] at h
  next lo b hlo =>
    split at h
    · simp [State.resetFault] at h
    next hi b' hhi => exact ⟨lo, hi, b, b', hlo, hhi, (Host.Outcome.next.inj h).symm⟩

theorem resetMachine_next_phase {s t : State} (h : resetMachine s = .next t) : t.phase = s.phase.afterReset := by
  obtain ⟨lo, hi, b, b', -, -, rfl⟩ := resetMachine_next h
  exact s.resetRegs_phase

/-- Settles O9: the answers of the operations while `Halted`, one by one, and the phase a reset leaves. -/
theorem haltedUntilReset : Obligations.HaltedUntilReset := by
  unfold Obligations.HaltedUntilReset
  intro s report h
  refine ⟨step_halted h, ?run, attach_halted h, hostRead_halted h, hostWrite_halted h, loadRegs_halted h, ?line, ?reset⟩
  case run =>
    intro pred budget hpred hbudget
    rw [runUntil_stopped hpred hbudget (step_halted h), FaultKind.toFault_cyclesInStep _ h]
  case line =>
    intro line level
    rw [setHostLine_phase, h]
  case reset =>
    intro t ht
    rw [resetMachine_next_phase ht, h]
    rfl

end Sys2Proof.Machine
end

section
/-! PROOFS. The two cycles of an unimplemented opcode under policy `SubstituteNop` (40_cycle_engine.md R424;
60_exceptions.md R804). -/

namespace Sys2Proof.Machine

/-! ### Cycle 1: the opcode fetch -/

theorem raiseUnimplemented_substituteNop {r : Run} (op : Byte) (pc : Word)
    (hp : r.m.params.policy = .substituteNop) : raiseUnimplemented op pc r = .ok () r := by
  simp [raiseUnimplemented, hp]

/-- Under policy `SubstituteNop` the fetch of an unimplemented opcode is its one read, and PC + 1. -/
theorem fetchInstr_substituted {op : Byte} {b : Bus} (r : Run) (hop : op ∈ unimplementedOpcodes)
    (hp : r.m.params.policy = .substituteNop) (h : r.m.bus.read r.m.regs.pc = some (op, b)) :
    fetchInstr r = .ok (.unimplemented op r.m.regs.pc) (r.went [rd r.m.regs.pc op] b.tick
      { r.m.regs with pc := r.m.regs.pc + 1 } { r.q.latch with ir := .opcode op }) := by
  rw [fetchInstr_opcode r h, (opcodeCell_no op).mpr hop]
  simp only
  rw [M.bind_ok (raiseUnimplemented_substituteNop op _ (by rw [Run.went_params, hp])),
    M.bind_ok (tickDevices_went r _ _ _ _)]
  rfl

/-- A ready machine at an unmapped PC faults in its opcode fetch. -/
theorem step_fetch_unmapped {s : State} (hs : s.Ready) (hm : s.bus.mapped s.regs.pc = false) :
    step s = .fault (.unmappedAccess s.regs.pc .read (s.faulted [] s.bus (.unmappedAccess s.regs.pc .read))) := by
  have hread : s.enter.sampled.m.bus.read s.enter.sampled.m.regs.pc = none := by
    simpa using (Bus.read_none_iff _ _).mpr hm
  rw [hs.step, runInstruction, fetchInstr_unmapped _ hread]
  simp only [Run.sampled_regs, State.enter_regs, FaultKind.toFault]
  rw [State.sampled_went hs.boundary, State.sampled_halt hs.boundary]

/-- After the fetch of an unimplemented opcode the step is the substituted no-op. -/
theorem step_substituted {s : State} {op : Byte} {b : Bus} (hs : s.Ready)
    (hp : s.params.policy = .substituteNop) (hop : op ∈ unimplementedOpcodes)
    (h : s.bus.replay [rd s.regs.pc op] = some b) :
    step s = runFrom (substituteNop op s.regs.pc) (s.enter.sampled.went [rd s.regs.pc op] b
      { s.regs with pc := s.regs.pc + 1 } { s.enter.q.latch with ir := .opcode op }) := by
  obtain ⟨b₁, hread, hb⟩ := (Bus.replay_rd _ _ _ _ _).mp h
  obtain rfl := (Bus.replay_nil _ _).mp hb
  have hfetch := fetchInstr_substituted s.enter.sampled hop (by simpa using hp) (by simpa using hread)
  simp only [Run.sampled_regs, Run.sampled_q, State.enter_regs] at hfetch
  rw [hs.step, runInstruction, hfetch]

/-! ### Cycle 2: the discarded read, and the report -/

/-- What a step that ends with the report of an opcode leaves: the machine of a step, with the report. -/
theorem runFrom_reportOpcode {s : State} {cs : List BusCycle} (hs : s.seq = .boundary) (hc : cs ≠ [])
    (op : Byte) (pc : Word) (b : Bus) (g : Regs) (l : Latches) :
    runFrom (reportOpcode op pc) (s.enter.sampled.went cs b g l) =
      .next { s.stepped cs b g with result := ⟨cs.length, [⟨op, pc⟩]⟩ } := by
  rw [← State.sampled_finish hs hc b g l, State.sampled_boundary hs]
  simp [runFrom, reportOpcode, Run.went, Run.finish]

/-- The no-op of an unimplemented opcode, its read mapped: the step is the read's cycle and the report. -/
theorem runFrom_substituteNop {s : State} {cs : List BusCycle} {b b' : Bus} {g : Regs} {u : Byte}
    (hs : s.seq = .boundary) (op : Byte) (pc : Word) (l : Latches) (h : b.replay [rd g.pc u] = some b') :
    runFrom (substituteNop op pc) (s.enter.sampled.went cs b g l) =
      .next { s.stepped (cs ++ [rd g.pc u]) b' g with result := ⟨(cs ++ [rd g.pc u]).length, [⟨op, pc⟩]⟩ } := by
  obtain ⟨b₁, hread, hb⟩ := (Bus.replay_rd _ _ _ _ _).mp h
  obtain rfl := (Bus.replay_nil _ _).mp hb
  rw [runFrom, substituteNop_went op pc _ _ _ hread, ← runFrom, runFrom_reportOpcode hs (by simp)]

/-- The no-op of an unimplemented opcode, its read not mapped: the step faults in that cycle. -/
theorem runFrom_substituteNop_unmapped {s : State} {b : Bus} {g : Regs} (hs : s.seq = .boundary) (op : Byte)
    (pc : Word) (cs : List BusCycle) (l : Latches) (hm : b.mapped g.pc = false) :
    runFrom (substituteNop op pc) (s.enter.sampled.went cs b g l) =
      .fault (.unmappedAccess g.pc .read (s.faulted cs b (.unmappedAccess g.pc .read))) := by
  rw [runFrom, substituteNop_fault op pc _ _ _ ((Bus.read_none_iff _ _).mpr hm)]
  simp only [FaultKind.toFault, State.sampled_halt hs]

/-! ### Both cycles -/

/-- A fault along two cycles is in the first, from the bus as it is, or in the second, from the bus the first
leaves. -/
theorem faultsAlong_pair {run : State → StepOutcome} {s : State} {c d : BusCycle}
    (hfirst : s.bus.mapped c.address = false →
      run s = .fault (.unmappedAccess c.address c.access
        (s.faulted [] s.bus (.unmappedAccess c.address c.access))))
    (hsecond : ∀ b, s.bus.replay [c] = some b → b.mapped d.address = false →
      run s = .fault (.unmappedAccess d.address d.access
        (s.faulted [c] b (.unmappedAccess d.address d.access)))) :
    FaultsAlong run s [c, d] := by
  intro n e b he hb hm
  match n, he with
  | 0, rfl =>
    obtain rfl := (Bus.replay_nil _ _).mp hb
    exact hfirst hm
  | 1, rfl => exact hsecond b hb hm

/-- Settles O11: the fetch, then the substituted no-op; a fault is in the one cycle or in the other. -/
theorem unimplementedOpcodeSubstituted : Obligations.UnimplementedOpcodeSubstituted := by
  unfold Obligations.UnimplementedOpcodeSubstituted
  intro s op u hs hp hop cs
  constructor
  · intro b hb
    obtain ⟨b₁, hfetch, hnop⟩ := Option.bind_eq_some_iff.mp
      ((Bus.replay_append s.bus [rd s.regs.pc op] [rd (s.regs.pc + 1) u]).symm.trans hb)
    rw [step_substituted hs hp hop hfetch]
    exact runFrom_substituteNop (g := { s.regs with pc := s.regs.pc + 1 }) hs.boundary op _ _ hnop
  · refine faultsAlong_pair (step_fetch_unmapped hs) fun b hfetch hm => ?_
    rw [step_substituted hs hp hop hfetch]
    exact runFrom_substituteNop_unmapped (g := { s.regs with pc := s.regs.pc + 1 }) hs.boundary op _ _ _ hm

end Sys2Proof.Machine
end

section
/-! PROOFS. Whole steps of the instructions of one byte that touch no memory: the transfers, the index counts, the flag
operations and NOP (42_load_store_transfer.md R507 to R512; 43_arithmetic.md R561 to R564; 46_stack_flags_misc.md
R704 to R711). -/

namespace Sys2Proof.Machine

/-- From a ready machine, the step of opcode `op` is its fetch and the discarded read after it, and leaves the registers
as `effect` says, with PC + 1; a fault is in the one cycle or in the other. -/
def StepsImplied (op : Byte) (effect : Regs → Regs) : Prop :=
  ∀ (s : State) (u : Byte), s.Ready →
    let cs := [rd s.regs.pc op, rd (s.regs.pc + 1) u]
    (∀ b, s.bus.replay cs = some b →
      step s = .next (s.stepped cs b { effect s.regs with pc := s.regs.pc + 1 })) ∧
    FaultsAlong step s cs

/-- R452, fetch included: an instruction of the implied form, whose effect neither reads PC nor writes it, so that the
increment of the fetch can be taken after it. -/
theorem StepsImplied.of_instr (i : Instr) {op : Byte} {effect : Regs → Regs} (hcell : opcodeCell op = .op0 i)
    (hexec : ∀ s, exec i s = runSeq (implied effect) s)
    (hpc : ∀ (g : Regs) (a : Word), effect { g with pc := a } = { effect g with pc := a }) :
    StepsImplied op effect := by
  intro s u hs
  have hfetch : fetchCycles i = 1 := by
    have hagrees := opcodeCell_agrees op
    rw [hcell] at hagrees
    exact hagrees.2
  have hdecode : decode [op] = .ok (i, []) := by simp only [decode, hcell]
  have hstep := step_tracks hs hdecode hexec (implied_tracks effect u _ _)
  rw [hfetch, hpc] at hstep
  exact hstep

/-- Settles O45: each opcode is of the implied form, with the effect its rule gives. -/
theorem oneByteSteps : Obligations.OneByteSteps := by
  unfold Obligations.OneByteSteps
  simp only [List.forall_mem_cons]
  exact ⟨StepsImplied.of_instr .tax rfl (fun _ => rfl) fun _ _ => rfl,
    StepsImplied.of_instr .tay rfl (fun _ => rfl) fun _ _ => rfl,
    StepsImplied.of_instr .tsx rfl (fun _ => rfl) fun _ _ => rfl,
    StepsImplied.of_instr .txa rfl (fun _ => rfl) fun _ _ => rfl,
    StepsImplied.of_instr .tya rfl (fun _ => rfl) fun _ _ => rfl,
    StepsImplied.of_instr .inx rfl (fun _ => rfl) fun _ _ => rfl,
    StepsImplied.of_instr .iny rfl (fun _ => rfl) fun _ _ => rfl,
    StepsImplied.of_instr .dex rfl (fun _ => rfl) fun _ _ => rfl,
    StepsImplied.of_instr .dey rfl (fun _ => rfl) fun _ _ => rfl,
    StepsImplied.of_instr .clc rfl (fun _ => rfl) fun _ _ => rfl,
    StepsImplied.of_instr .sec rfl (fun _ => rfl) fun _ _ => rfl,
    List.forall_mem_nil _⟩

/-- Settles O46: each opcode is of the implied form, with the effect its rule gives. -/
theorem flagSteps : Obligations.FlagSteps := by
  unfold Obligations.FlagSteps
  simp only [List.forall_mem_cons]
  exact ⟨StepsImplied.of_instr .txs rfl (fun _ => rfl) fun _ _ => rfl,
    StepsImplied.of_instr .cld rfl (fun _ => rfl) fun _ _ => rfl,
    StepsImplied.of_instr .sed rfl (fun _ => rfl) fun _ _ => rfl,
    StepsImplied.of_instr .cli rfl (fun _ => rfl) fun _ _ => rfl,
    StepsImplied.of_instr .sei rfl (fun _ => rfl) fun _ _ => rfl,
    StepsImplied.of_instr .clv rfl (fun _ => rfl) fun _ _ => rfl,
    StepsImplied.of_instr .nop rfl (fun _ => rfl) fun _ _ => rfl,
    List.forall_mem_nil _⟩

end Sys2Proof.Machine
end

section
/-! PROOFS. Compare (43_arithmetic.md R555 to R558). -/

namespace Sys2Proof.Machine

/-- R555: the model subtracts modulo 2^8, the rule takes the low byte of the unbounded difference. -/
theorem Regs.compare_eq (g : Regs) (r m : Byte) :
    g.compare r m = { g with
      c := decide (m.toNat ≤ r.toNat)
      z := decide (r = m)
      n := (BitVec.ofInt 8 ((r.toNat : Int) - m.toNat)).getLsbD 7 } := by
  have hdiff : BitVec.ofInt 8 ((r.toNat : Int) - m.toNat) = r - m := by bv_omega
  rw [Regs.compare, hdiff, beq_eq_decide]

/-- Settles O42: each of the three is `Regs.compare` of its register. -/
theorem compareRule : Obligations.CompareRule := by
  unfold Obligations.CompareRule
  intro m g
  exact ⟨g.compare_eq g.a m, g.compare_eq g.x m, g.compare_eq g.y m⟩

end Sys2Proof.Machine
end

section
/-! PROOFS. Decimal addition (43_arithmetic.md R552, decision D1): the digits behind the model's masks, the flags, and
the two digit adjusts on valid digits. -/

namespace Sys2Proof.Machine

/-! ### The two digits of a byte -/

theorem and_0x0F_toNat (b : Byte) : (b &&& 0x0F).toNat = b.toNat % 16 :=
  (BitVec.toNat_and ..).trans (Nat.and_two_pow_sub_one_eq_mod b.toNat 4)

/-- The mask drops the low digit, as a shift right and back does. -/
theorem and_0xF0_toNat (b : Byte) : (b &&& 0xF0).toNat = b.toNat / 16 * 16 := by
  have hmask : (0xF0 : Byte) = BitVec.allOnes 8 <<< 4 := by decide
  have hlt := b.isLt
  rw [hmask, ← BitVec.shiftLeft_ushiftRight, BitVec.toNat_shiftLeft, BitVec.toNat_ushiftRight, Nat.shiftLeft_eq,
    Nat.shiftRight_eq_div_pow]
  omega

/-! ### R552 for every input -/

/-- The low digit of R552, over the low digits of the operands. -/
theorem adcLowDigit_eq (a m : Byte) (c : Bool) :
    adcLowDigit a m c =
      let al := a.toNat % 16 + m.toNat % 16 + c.toNat
      if 0x0A ≤ al then (al + 0x06) % 16 + 0x10 else al := by
  rw [adcLowDigit, and_0x0F_toNat, and_0x0F_toNat]
  rfl

/-- The sum of R552 before the high-digit adjust, over the high digits of the operands. -/
theorem adcDecimalSum_eq (a m : Byte) (c : Bool) :
    adcDecimalSum a m c = a.toNat / 16 * 16 + m.toNat / 16 * 16 + adcLowDigit a m c := by
  rw [adcDecimalSum, and_0xF0_toNat, and_0xF0_toNat]

/-- The Z flag of the low byte of a number. -/
theorem ofNat_beq_zero (k : Nat) : (BitVec.ofNat 8 k == 0) = decide (k % 256 = 0) := by
  rw [beq_eq_decide]
  exact decide_eq_decide.mpr BitVec.toNat_inj.symm

/-- The V flag of R552: the operands agree in their top bit, and the sum differs from them there. -/
theorem decimalOverflow_eq (a m : Byte) (t : Nat) :
    ((a ^^^ BitVec.ofNat 8 t).getLsbD 7 && !(a ^^^ m).getLsbD 7) =
      decide (a.getLsbD 7 ≠ t.testBit 7 ∧ a.getLsbD 7 = m.getLsbD 7) := by
  simp only [BitVec.getLsbD_xor, BitVec.getLsbD_ofNat, Nat.reduceLT, decide_true, Bool.true_and]
  cases a.getLsbD 7 <;> cases m.getLsbD 7 <;> cases t.testBit 7 <;> rfl

/-- R552: the registers after a decimal ADC. -/
theorem Regs.adc_of_decimal {m : Byte} {g : Regs} {t : Nat} (hd : g.d = true) (ht : adcDecimalSum g.a m g.c = t) :
    let t' := if 0xA0 ≤ t then t + 0x60 else t
    Regs.adc m g = { g with
      a := BitVec.ofNat 8 t'
      c := decide (0x100 ≤ t')
      v := decide (g.a.getLsbD 7 ≠ t.testBit 7 ∧ g.a.getLsbD 7 = m.getLsbD 7)
      z := decide ((g.a.toNat + m.toNat + g.c.toNat) % 256 = 0)
      n := t.testBit 7 } := by
  rw [Regs.adc, if_pos hd, Regs.adcDecimal, ofNat_beq_zero, decimalOverflow_eq, ht]
  rfl

/-! ### Valid digits -/

/-- Adding 6 carries the ten of a low digit sum into the next digit. -/
theorem lowDigit_adjust {k : Nat} (hk : k ≤ 19) :
    (if 0x0A ≤ k then (k + 0x06) % 16 + 0x10 else k) = k / 10 * 16 + k % 10 := by
  split <;> omega

/-- Adding 0x60 carries the ten of a high digit sum out of the byte. -/
theorem highDigit_adjust {h l : Nat} (hl : l ≤ 9) (hh : h ≤ 19) :
    (if 0xA0 ≤ h * 16 + l then h * 16 + l + 0x60 else h * 16 + l) = h / 10 * 256 + h % 10 * 16 + l := by
  split <;> omega

/-- The sum of R552 on valid digits: the low one is that of the decimal sum, and its ten is carried. -/
theorem adcDecimalSum_of_digits {a m : Byte} (c : Bool) (ha : a.toNat % 16 ≤ 9) (hm : m.toNat % 16 ≤ 9) :
    let al := a.toNat % 16 + m.toNat % 16 + c.toNat
    adcDecimalSum a m c = (a.toNat / 16 + m.toNat / 16 + al / 10) * 16 + al % 10 := by
  intro al
  have hc := Bool.toNat_le c
  rw [adcDecimalSum_eq, adcLowDigit_eq, lowDigit_adjust (by omega)]
  omega

/-- Both adjusts on valid digits: the decimal sum, its hundred in the ninth bit. -/
theorem adcDecimalSum_adjust {a m : Byte} {c : Bool} {t : Nat} (ht : adcDecimalSum a m c = t)
    (hal : a.toNat % 16 ≤ 9) (hah : a.toNat / 16 ≤ 9) (hml : m.toNat % 16 ≤ 9) (hmh : m.toNat / 16 ≤ 9) :
    let sum := (a.toNat / 16 * 10 + a.toNat % 16) + (m.toNat / 16 * 10 + m.toNat % 16) + c.toNat
    (if 0xA0 ≤ t then t + 0x60 else t) = sum / 100 * 256 + (sum % 100 / 10 * 16 + sum % 10) := by
  intro sum
  have hc := Bool.toNat_le c
  rw [← ht, adcDecimalSum_of_digits c hal hml, highDigit_adjust (by omega) (by omega)]
  omega

/-- Settles O39: every input is `Regs.adc_of_decimal`; on valid digits `adcDecimalSum_adjust` gives A and C. -/
theorem decimalAddition : Obligations.DecimalAddition := by
  unfold Obligations.DecimalAddition
  intro m g hd al al' t t' r
  have hlow : adcLowDigit g.a m g.c = al' := adcLowDigit_eq g.a m g.c
  have ht : adcDecimalSum g.a m g.c = t := by rw [adcDecimalSum_eq, hlow]
  have hr := Regs.adc_of_decimal hd ht
  refine ⟨hr, ?digits⟩
  case digits =>
    intro hal hah hml hmh sum
    have ht' : t' = sum / 100 * 256 + (sum % 100 / 10 * 16 + sum % 10) :=
      adcDecimalSum_adjust ht hal hah hml hmh
    have hra : r.a.toNat = t' % 256 := congrArg (·.a.toNat) hr
    have hrc : r.c = decide (0x100 ≤ t') := congrArg Regs.c hr
    rw [hra, hrc, decide_eq_true_iff]
    omega

end Sys2Proof.Machine
end

section
/-! PROOFS. Whole steps of the eight branches (45_control.md R650 to R658). -/

namespace Sys2Proof.Machine

/-! ### Where a branch goes -/

/-- R650: the model adds the sign-extended offset modulo 2^16, the rule takes the low word of the unbounded sum. -/
theorem ofInt_add_toInt_eq_add_sext (pcn : Word) (b1 : Byte) :
    BitVec.ofInt 16 (pcn.toNat + b1.toInt) = pcn + sext b1 := by
  rw [BitVec.ofInt_add, BitVec.ofInt_natCast, BitVec.ofNat_toNat, BitVec.setWidth_eq]
  rfl

/-! ### Fetch and branch -/

/-- From a ready machine, the step of opcode `op` is a branch taken iff `taken`: its fetch alone if it is not taken, one
discarded read more if its target is in the page of the next instruction, two more if it is not; a fault is in the first
of these cycles at an unmapped address. -/
def StepsBranch (op : Byte) (taken : Regs → Bool) : Prop :=
  ∀ (s : State) (b1 u v : Byte), s.Ready →
    let pcn := s.regs.pc + 2
    let target := BitVec.ofInt 16 (pcn.toNat + b1.toInt)
    let fetch := [rd s.regs.pc op, rd (s.regs.pc + 1) b1]
    let cs := if taken s.regs = false then fetch else if hi8 target = hi8 pcn then fetch ++ [rd pcn u]
      else fetch ++ [rd pcn u, rd (word (hi8 pcn) (lo8 target)) v]
    (∀ b, s.bus.replay cs = some b →
      step s = .next (s.stepped cs b { s.regs with pc := if taken s.regs = false then pcn else target })) ∧
    FaultsAlong step s cs

/-- The step of an instruction of two bytes: the fetch of both, then the rest of its sequence, with PC past them. -/
theorem step_two_bytes {f : Byte → Instr} {op b1 : Byte} {m : M Unit} {s : State} {cs : List BusCycle} {g : Regs}
    {l : Latches} (hs : s.Ready) (hcell : opcodeCell op = .op1 f) (hexec : ∀ s, exec (f b1) s = runSeq m s)
    (h : Tracks m { s.regs with pc := s.regs.pc + 2 } { Latches.fresh with ir := .opcode (opcodeOf (f b1)) } cs () g l) :
    let fetch := [rd s.regs.pc op, rd (s.regs.pc + 1) b1]
    (∀ b, s.bus.replay (fetch ++ cs) = some b → step s = .next (s.stepped (fetch ++ cs) b g)) ∧
      FaultsAlong step s (fetch ++ cs) := by
  have hfetch : fetchCycles (f b1) = 2 := by
    have hagrees := opcodeCell_agrees op
    rw [hcell] at hagrees
    exact (hagrees b1).2
  have hdecode : decode [op, b1] = .ok (f b1, []) := by simp only [decode, hcell]
  have hstep := step_tracks hs hdecode hexec (by rw [hfetch]; exact h)
  rw [hfetch] at hstep
  exact hstep

/-- R650, fetch included: an instruction that is a branch on a condition that does not read PC. -/
theorem StepsBranch.of_instr (f : Byte → Instr) {op : Byte} {taken : Regs → Bool} (hcell : opcodeCell op = .op1 f)
    (hexec : ∀ b1 s, exec (f b1) s = runSeq (branch taken b1) s)
    (hpc : ∀ (g : Regs) (a : Word), taken { g with pc := a } = taken g) : StepsBranch op taken := by
  intro s b1 u v hs pcn target fetch cs
  have htarget : target = pcn + sext b1 := ofInt_add_toInt_eq_add_sext pcn b1
  have hcond : taken { s.regs with pc := pcn } = taken s.regs := hpc s.regs pcn
  cases ht : taken s.regs with
  | false =>
    simp only [cs, ht, if_true]
    exact step_two_bytes hs hcell (hexec b1) (branch_not_taken b1 _ (hcond.trans ht))
  | true =>
    simp only [cs, ht, htarget, Bool.true_eq_false, if_false]
    by_cases hpage : hi8 (pcn + sext b1) = hi8 pcn
    · rw [if_pos hpage]
      exact step_two_bytes hs hcell (hexec b1) (branch_taken u _ (hcond.trans ht) hpage)
    · rw [if_neg hpage]
      exact step_two_bytes hs hcell (hexec b1) (branch_crossing u v _ (hcond.trans ht) hpage)

/-- Settles O48: each opcode is a branch, on the condition its rule gives. -/
theorem branchSteps : Obligations.BranchSteps := by
  unfold Obligations.BranchSteps
  simp only [List.forall_mem_cons]
  exact ⟨StepsBranch.of_instr .bplRel rfl (fun _ _ => rfl) fun _ _ => rfl,
    StepsBranch.of_instr .bmiRel rfl (fun _ _ => rfl) fun _ _ => rfl,
    StepsBranch.of_instr .bvcRel rfl (fun _ _ => rfl) fun _ _ => rfl,
    StepsBranch.of_instr .bvsRel rfl (fun _ _ => rfl) fun _ _ => rfl,
    StepsBranch.of_instr .bccRel rfl (fun _ _ => rfl) fun _ _ => rfl,
    StepsBranch.of_instr .bcsRel rfl (fun _ _ => rfl) fun _ _ => rfl,
    StepsBranch.of_instr .bneRel rfl (fun _ _ => rfl) fun _ _ => rfl,
    StepsBranch.of_instr .beqRel rfl (fun _ _ => rfl) fun _ _ => rfl,
    List.forall_mem_nil _⟩

end Sys2Proof.Machine
end

section
/-! PROOFS. Whole steps of JMP absolute, JMP indirect, JSR and RTS (45_control.md R659 to R662). -/

namespace Sys2Proof.Machine

/-! ### The model counts PC and S one at a time, the tables give the sum -/

theorem add_one_add_one {w : Nat} (a : BitVec w) : a + 1 + 1 = a + 2 := by
  rw [BitVec.add_assoc, one_add_one_eq_two]

theorem sub_one_sub_one {w : Nat} (a : BitVec w) : a - 1 - 1 = a - 2 := by
  rw [BitVec.sub_sub, one_add_one_eq_two]

/-- Settles O49: each is its fetch, of two of its three bytes for JSR, then the rest of its sequence. -/
theorem jumpSteps : Obligations.JumpSteps := by
  unfold Obligations.JumpSteps
  intro s hs g
  refine ⟨?jmpAbs, ?jmpInd, ?jsr, ?rts⟩
  case jmpAbs =>
    intro adl adh
    have hstep := step_tracks hs (bytes := [0x4C, adl, adh]) rfl (fun _ => rfl) (jmpAbs_tracks adl adh _ _)
    rw [← add_one_add_one]
    exact hstep
  case jmpInd =>
    intro pal pah adl adh
    have hstep := step_tracks hs (bytes := [0x6C, pal, pah]) rfl (fun _ => rfl) (jmpInd_tracks pal pah adl adh _ _)
    rw [← add_one_add_one]
    exact hstep
  case jsr =>
    intro adl u adh
    have hstep := step_tracks hs (bytes := [0x20, adl, adh]) rfl (fun _ => rfl) (jsrAbs_tracks adl u adh _ _)
    rw [← sub_one_sub_one]
    exact hstep
  case rts =>
    intro u v pcl pch w
    have hstep := step_tracks hs (bytes := [0x60]) rfl (fun _ => rfl) (rts_tracks u v pcl pch w _ _)
    rw [← add_one_add_one]
    exact hstep

end Sys2Proof.Machine
end

section
/-! PROOFS. Whole steps of PHA, PHP, PLA and PLP (46_stack_flags_misc.md R700 to R703), BRK and RTI (45_control.md R664,
R665). -/

namespace Sys2Proof.Machine

/-! ### Three counts of PC or S, one at a time -/

theorem add_one_add_one_add_one {w : Nat} (a : BitVec w) : a + 1 + 1 + 1 = a + 3 := by
  rw [add_one_add_one a, BitVec.add_assoc, two_add_one_eq_three]

theorem sub_one_sub_one_sub_one {w : Nat} (a : BitVec w) : a - 1 - 1 - 1 = a - 3 := by
  rw [sub_one_sub_one a, BitVec.sub_sub, two_add_one_eq_three]

/-! ### Fetch, then push or pull -/

/-- The step of an instruction of one byte: the fetch of its opcode, then the rest of its sequence, with PC past it. -/
theorem step_one_byte {i : Instr} {op : Byte} {m : M Unit} {s : State} {cs : List BusCycle} {g : Regs} {l : Latches}
    (hs : s.Ready) (hcell : opcodeCell op = .op0 i) (hexec : ∀ s, exec i s = runSeq m s)
    (h : Tracks m { s.regs with pc := s.regs.pc + 1 } { Latches.fresh with ir := .opcode (opcodeOf i) } cs () g l) :
    (∀ b, s.bus.replay (rd s.regs.pc op :: cs) = some b → step s = .next (s.stepped (rd s.regs.pc op :: cs) b g)) ∧
      FaultsAlong step s (rd s.regs.pc op :: cs) := by
  have hfetch : fetchCycles i = 1 := by
    have hagrees := opcodeCell_agrees op
    rw [hcell] at hagrees
    exact hagrees.2
  have hdecode : decode [op] = .ok (i, []) := by simp only [decode, hcell]
  have hstep := step_tracks hs hdecode hexec (by rw [hfetch]; exact h)
  rw [hfetch] at hstep
  exact hstep

/-- From a ready machine, the step of opcode `op` pushes `byte` of the registers: its fetch, the discarded read after it
and the push; a fault is in the first of these cycles at an unmapped address. -/
def StepsPush (op : Byte) (byte : Regs → Byte) (s : State) : Prop :=
  ∀ u : Byte,
    let cs := [rd s.regs.pc op, rd (s.regs.pc + 1) u, wr (stackAddress s.regs.s) (byte s.regs)]
    (∀ b, s.bus.replay cs = some b →
      step s = .next (s.stepped cs b { s.regs with s := s.regs.s - 1, pc := s.regs.pc + 1 })) ∧
    FaultsAlong step s cs

/-- R700 and R701, fetch included: an instruction that pushes a byte that does not read PC. -/
theorem StepsPush.of_instr (i : Instr) {op : Byte} {byte : Regs → Byte} {s : State} (hs : s.Ready)
    (hcell : opcodeCell op = .op0 i) (hexec : ∀ s, exec i s = runSeq (pushInstr byte) s)
    (hpc : ∀ (g : Regs) (a : Word), byte { g with pc := a } = byte g) : StepsPush op byte s := by
  intro u
  have hstep := step_one_byte hs hcell hexec (pushInstr_tracks byte u _ _)
  rw [hpc] at hstep
  exact hstep

/-- Settles O47: each is the fetch of its opcode, then the rest of its sequence. -/
theorem stackSteps : Obligations.StackSteps := by
  unfold Obligations.StackSteps
  intro s hs g
  refine ⟨?pushes, ?pulls, ?brk, ?rti⟩
  case pushes =>
    simp only [List.forall_mem_cons]
    exact ⟨StepsPush.of_instr .pha hs rfl (fun _ => rfl) fun _ _ => rfl,
      StepsPush.of_instr .php hs rfl (fun _ => rfl) fun _ _ => rfl,
      List.forall_mem_nil _⟩
  case pulls =>
    intro u v w cs
    obtain ⟨hpla, hplaFault⟩ := step_one_byte (op := 0x68) hs rfl (fun _ => rfl)
      (pullInstr_tracks (fun v g => { g.nz v with a := v }) u v w _ _)
    obtain ⟨hplp, hplpFault⟩ := step_one_byte (op := 0x28) hs rfl (fun _ => rfl)
      (pullInstr_tracks (fun v g => g.loadP v) u v w _ _)
    exact ⟨hpla, hplaFault, hplp, hplpFault⟩
  case brk =>
    intro u lo hi
    have hstep := step_one_byte (op := 0x00) hs rfl (fun _ => rfl) (brk_tracks u lo hi _ _)
    rw [← add_one_add_one, ← sub_one_sub_one, ← sub_one_sub_one_sub_one]
    exact hstep
  case rti =>
    intro u v p lo hi
    have hstep := step_one_byte (op := 0x40) hs rfl (fun _ => rfl) (rti_tracks u v p lo hi _ _)
    rw [← add_one_add_one, ← add_one_add_one_add_one]
    exact hstep

end Sys2Proof.Machine
end

section
/-! PROOFS. The step that services an interrupt (60_exceptions.md R821, R822). -/

namespace Sys2Proof.Machine

/-- R821: the vector of each kind of service. -/
theorem ServiceKind.vector_of_kind {k : ServiceKind} {vector : Word}
    (h : k = .nmi ∧ vector = 0xFFFA ∨ k = .irq ∧ vector = 0xFFFE) : k.vector = vector := by
  obtain ⟨rfl, rfl⟩ | ⟨rfl, rfl⟩ := h <;> rfl

/-- A step that is a sequence from the boundary sample on: what the sequence tracks, it makes of the machine, and its
faults are those of its cycles. -/
theorem step_tracks_of_sampled {m : M Unit} {s : State} {cs : List BusCycle} {g : Regs} {l : Latches}
    (hstep : step s = runFrom m s.enter.sampled) (hs : s.seq = .boundary) (hc : cs ≠ [])
    (h : Tracks m s.regs .fresh cs () g l) :
    (∀ b, s.bus.replay cs = some b → step s = .next (s.stepped cs b g)) ∧ FaultsAlong step s cs := by
  unfold FaultsAlong
  rw [hstep]
  exact runFrom_sampled_tracks hs hc h

/-- Settles O8: the step of a pending service is `serviceSequence`, whose cycles and registers are those of
`serviceSequence_tracks`. -/
theorem stepServicesInterrupt : Obligations.StepServicesInterrupt := by
  unfold Obligations.StepServicesInterrupt
  intro s k vector u v lo hi hs ha hk hvector
  have htracks := serviceSequence_tracks k u v lo hi s.regs .fresh
  rw [ServiceKind.vector_of_kind hvector, sub_one_sub_one_sub_one, sub_one_sub_one] at htracks
  exact step_tracks_of_sampled (step_service ha hk) hs (List.cons_ne_nil _ _) htracks

end Sys2Proof.Machine
end

section
/-! PROOFS. Encoding (30_encoding.md): the decoder reads back what the encoder writes, whatever follows it, reads
nothing else, and refuses the opcodes of R306. -/

namespace Sys2Proof

open Sys2Proof.Machine

/-- R304: the map has each instruction in the cell of its opcode, with as many operand bytes as the encoder writes. -/
theorem decode_encode (i : Instr) (rest : List Byte) : decode (encode i ++ rest) = .ok (i, rest) := by
  cases i <;> rfl

/-- The bytes before what the decoder leaves are those of the instruction: the encoder agrees with the cell of every
opcode. -/
theorem encode_of_decode {bytes rest : List Byte} {i : Instr} (h : decode bytes = .ok (i, rest)) :
    bytes = encode i ++ rest := by
  cases bytes with
  | nil => cases h
  | cons op tail =>
    have hcell := opcodeCell_agrees op
    cases hc : opcodeCell op with
    | no => simp [decode, hc] at h
    | op0 j =>
      simp only [decode, hc, Except.ok.injEq, Prod.mk.injEq] at h
      obtain ⟨rfl, rfl⟩ := h
      rw [hc] at hcell
      rw [hcell.1]
      rfl
    | op1 f =>
      cases tail with
      | nil => simp [decode, hc] at h
      | cons b1 tail =>
        simp only [decode, hc, Except.ok.injEq, Prod.mk.injEq] at h
        obtain ⟨rfl, rfl⟩ := h
        rw [hc] at hcell
        rw [(hcell b1).1]
        rfl
    | op2 f | op2late f =>
      match tail with
      | [] => simp [decode, hc] at h
      | [_] => simp [decode, hc] at h
      | b1 :: b2 :: tail =>
        simp only [decode, hc, Except.ok.injEq, Prod.mk.injEq] at h
        obtain ⟨rfl, rfl⟩ := h
        rw [hc] at hcell
        rw [(hcell b1 b2).1]
        rfl

/-- The decoder refuses an opcode by name exactly where the map has no instruction. -/
theorem decode_unimplemented_iff (bytes : List Byte) (op : Byte) :
    decode bytes = .error (.unimplementedOpcode op) ↔ bytes.head? = some op ∧ opcodeCell op = .no := by
  cases bytes with
  | nil => simp [decode]
  | cons first tail =>
    have key : decode (first :: tail) = .error (.unimplementedOpcode op) ↔ first = op ∧ opcodeCell first = .no := by
      cases hc : opcodeCell first with
      | no => simp [decode, hc]
      | op0 i => simp [decode, hc]
      | op1 f => cases tail <;> simp [decode, hc]
      | op2 f | op2late f =>
        match tail with
        | [] | [_] | _ :: _ :: _ => simp [decode, hc]
    rw [key, List.head?_cons, Option.some.injEq]
    exact and_congr_right fun h => by rw [h]

/-- Settles O1: `decode_encode`; every instruction is well-formed. -/
theorem decodeOfEncode : Obligations.DecodeOfEncode := by
  unfold Obligations.DecodeOfEncode
  intro i rest _
  exact decode_encode i rest

/-- Settles O2, by `encode_of_decode`. -/
theorem encodeOfDecode : Obligations.EncodeOfDecode := by
  unfold Obligations.EncodeOfDecode
  intro bytes i rest h
  exact encode_of_decode h

/-- Settles O3: `decode_unimplemented_iff`, the cells without an instruction being those of the list. -/
theorem unimplementedOpcodesRefused : Obligations.UnimplementedOpcodesRefused := by
  unfold Obligations.UnimplementedOpcodesRefused
  refine ⟨rfl, by decide, ?refused⟩
  case refused =>
    intro bytes op
    rw [decode_unimplemented_iff, opcodeCell_no]

/-- Settles O4: the decoder evaluates on each word. -/
theorem specWordsDecode : Obligations.SpecWordsDecode := by
  unfold Obligations.SpecWordsDecode
  exact ⟨rfl, rfl, rfl, rfl, rfl, rfl, rfl, rfl, rfl, rfl, rfl, rfl, rfl, rfl, rfl, rfl, rfl, rfl, rfl, rfl, rfl, rfl,
    rfl⟩

end Sys2Proof
end

section
/-! PROOFS. Steps (40_cycle_engine.md, 60_exceptions.md): what a step that answers a next state leaves, what one that
faults leaves, and the invariant between steps. -/

namespace Sys2Proof.Machine

/-! ### A step that answers a next state -/

theorem Phase.ticked_of_active {p : Phase} (h : ∀ r, p ≠ .halted r) : p.ticked = .running := by
  cases p with
  | configuring => rfl
  | running => rfl
  | halted r => exact absurd rfl (h r)

/-- A step from a boundary that answers made two to seven bus cycles, and leaves the machine of a step after them. -/
theorem step_next {s t : State} (hs : s.seq = .boundary) (ht : step s = .next t) :
    ∃ cs b g reports, s.bus.replay cs = some b ∧ 2 ≤ cs.length ∧ cs.length ≤ 7 ∧
      t = { s.stepped cs b g with result := ⟨cs.length, reports⟩ } := by
  cases step_ends hs (active_of_step_next ht) with
  | next cs b g reports hreplay hleast hmost hstep =>
    exact ⟨cs, b, g, reports, hreplay, hleast, hmost, Host.Outcome.next.inj (ht.symm.trans hstep)⟩
  | unmapped _ _ _ _ _ _ _ hstep => rw [hstep] at ht; cases ht
  | unimplemented _ _ _ _ hstep => rw [hstep] at ht; cases ht

/-- What a step that answers counts, and the boundary it ends at. -/
theorem step_next_counts {s t : State} (hs : s.seq = .boundary) (ht : step s = .next t) :
    t.cycles = s.cycles + t.result.cycles ∧ 2 ≤ t.result.cycles ∧ t.result.cycles ≤ 7 ∧
      t.trace.length = t.result.cycles ∧ t.seq = .boundary ∧ t.phase = .running := by
  obtain ⟨cs, b, g, reports, -, hleast, hmost, rfl⟩ := step_next hs ht
  exact ⟨rfl, hleast, hmost, rfl, rfl, Phase.ticked_of_active (active_of_step_next ht)⟩

/-- Settles O14, by `step_next_counts`. -/
theorem stepCountsItsCycles : Obligations.StepCountsItsCycles := by
  unfold Obligations.StepCountsItsCycles
  intro s t hs ht
  exact step_next_counts hs ht

/-- Settles O15: the platform's one entry, its empty RAM and its idle lines are well-formed. -/
theorem invariantAtReset : Obligations.InvariantAtReset := by
  unfold Obligations.InvariantAtReset
  exact ⟨rfl, rfl, rfl, by decide⟩

/-- Settles O16: the step's cycles keep the bus well-formed, and it counts each of them. -/
theorem stepKeepsInvariant : Obligations.StepKeepsInvariant := by
  unfold Obligations.StepKeepsInvariant
  intro s t hinv ht
  obtain ⟨-, -, hmost, hcounted, hboundary, -⟩ := step_next_counts hinv.boundary ht
  obtain ⟨cs, b, g, reports, hreplay, -, -, rfl⟩ := step_next hinv.boundary ht
  exact ⟨Bus.replay_wf hinv.bus hreplay, hboundary, hcounted, hmost⟩

/-! ### A step that faults -/

/-- The state `t` that a fault of kind `k` leaves of the machine `s` after `n` cycles (60_exceptions.md R806). -/
structure FaultLeaves (s : State) (k : FaultKind) (n : Nat) (t : State) : Prop where
  least    : 1 ≤ n
  most     : n ≤ 7
  regs     : t.regs = s.regs
  nmiPrev  : t.nmiPrev = s.nmiPrev
  boundary : t.seq = .boundary
  cycles   : t.cycles = s.cycles + n
  phase    : t.phase = .halted ⟨k, s.regs.pc, s.cycles + n, n⟩
  params   : t.params = s.params
  map      : t.bus.map = s.bus.map
  wf       : s.bus.wf = true → t.bus.wf = true

/-- The fault of an access in the cycle after those of `cs`. -/
theorem FaultLeaves.of_faulted {s : State} {cs : List BusCycle} {b : Bus} (hs : s.seq = .boundary)
    (hreplay : s.bus.replay cs = some b) (hfewer : cs.length < 7) (k : FaultKind) :
    FaultLeaves s k (cs.length + 1) (s.faulted cs b k) where
  least := Nat.succ_pos _
  most := hfewer
  regs := by simp only [State.faulted, State.enter_boundary hs]
  nmiPrev := by simp only [State.faulted, State.enter_boundary hs]
  boundary := rfl
  cycles := rfl
  phase := by simp only [State.faulted, State.enter_boundary hs, Nat.add_assoc, Nat.zero_add]
  params := rfl
  map := (Bus.replay_sameMap hreplay).1
  wf hb := Bus.replay_wf hb hreplay

/-- Every fault of a step leaves a machine, and carries it. -/
theorem step_fault {s : State} {f : Fault} (hs : s.seq = .boundary) (ha : ∀ r, s.phase ≠ .halted r)
    (hf : step s = .fault f) : ∃ k n t, f = k.toFault t ∧ FaultLeaves s k n t := by
  cases step_ends hs ha with
  | next _ _ _ _ _ _ _ hstep => rw [hstep] at hf; cases hf
  | unmapped cs b a acc hreplay _ hfewer hstep =>
    rw [hstep] at hf
    exact ⟨.unmappedAccess a acc, _, _, (Host.Outcome.fault.inj hf).symm, .of_faulted hs hreplay hfewer _⟩
  | unimplemented op b _ hread hstep =>
    rw [hstep] at hf
    exact ⟨.unimplementedOpcode op s.regs.pc, 1, _, (Host.Outcome.fault.inj hf).symm,
      ⟨le_rfl, by decide, rfl, rfl, hs, rfl, rfl, rfl, (Bus.read_sameMap hread).1, fun hb => Bus.read_wf hb hread⟩⟩

/-- A fault carries one machine. -/
theorem FaultKind.toFault_inj {k k' : FaultKind} {t t' : State} (h : k.toFault t = k'.toFault t') : t = t' := by
  cases k <;> cases k' <;> cases h <;> rfl

/-- Settles O12: `step_fault` says what the machine is that a fault leaves. -/
theorem faultRestoresTheBoundary : Obligations.FaultRestoresTheBoundary := by
  unfold Obligations.FaultRestoresTheBoundary
  intro s f hs ha hf
  obtain ⟨k, n, t, hft, ht⟩ := step_fault hs ha hf
  exact ⟨k, t, n, hft, ht.least, ht.most, ht.regs, ht.nmiPrev, ht.boundary, ht.cycles, ht.phase, ht.params, ht.map⟩

/-- Settles O17: the machine of `step_fault` is the one the fault carries. -/
theorem faultStopsTheMachine : Obligations.FaultStopsTheMachine := by
  unfold Obligations.FaultStopsTheMachine
  intro s t k hinv ha hf
  obtain ⟨k', n, t', hft, ht⟩ := step_fault hinv.boundary ha hf
  obtain rfl := FaultKind.toFault_inj hft
  exact ⟨ht.wf hinv.bus, ht.boundary, _, ht.phase, by rw [ht.regs]⟩

/-! ### No step is refused -/

theorem runFrom_ne_refused (m : M Unit) (r : Run) (why : Refusal) : runFrom m r ≠ .refused why := by
  unfold runFrom
  split <;> nofun

theorem exec_ne_refused (i : Instr) (s : State) (why : Refusal) : exec i s ≠ .refused why := by
  obtain ⟨-, m, hm, -⟩ := exec_does i
  rw [hm]
  exact runFrom_ne_refused m s.enter why

theorem runInstruction_ne_refused (r : Run) (why : Refusal) : runInstruction r ≠ .refused why := by
  unfold runInstruction
  split
  · nofun
  · exact exec_ne_refused _ _ why
  · exact runFrom_ne_refused _ _ why

theorem runSequence_ne_refused (s : State) (why : Refusal) : runSequence s ≠ .refused why := by
  unfold runSequence
  split
  · exact runFrom_ne_refused _ _ why
  · exact runInstruction_ne_refused _ why

/-- Settles O13: a halted machine answers its fault, and no sequence is refused. -/
theorem stepNeverRefuses : Obligations.StepNeverRefuses := by
  unfold Obligations.StepNeverRefuses
  intro s why
  unfold step
  split
  · simp [State.answerAgain]
  · exact runSequence_ne_refused s why
  · exact runSequence_ne_refused s why

/-! ### The opcode fetch -/

/-- Under policy `Halt` the fetch of an unimplemented opcode faults after its one read, before the devices tick. -/
theorem fetchInstr_halted {op : Byte} {b : Bus} (r : Run) (hop : op ∈ unimplementedOpcodes)
    (hp : r.m.params.policy = .halt) (h : r.m.bus.read r.m.regs.pc = some (op, b)) :
    fetchInstr r = .error (.unimplementedOpcode op r.m.regs.pc) (r.went [rd r.m.regs.pc op] b
      { r.m.regs with pc := r.m.regs.pc + 1 } { r.q.latch with ir := .opcode op }) := by
  rw [fetchInstr_opcode r h, (opcodeCell_no op).mpr hop]
  exact M.bind_error (by simp [raiseUnimplemented, hp])

/-- Settles O10: the fault of `fetchInstr_halted`, and the machine it leaves. -/
theorem unimplementedOpcodeHalts : Obligations.UnimplementedOpcodeHalts := by
  unfold Obligations.UnimplementedOpcodeHalts
  intro s op b hs hp hop hread
  have hfetch := fetchInstr_halted s.enter.sampled hop (by simpa using hp) (by simpa using hread)
  rw [hs.step, runInstruction, hfetch, State.sampled_boundary hs.boundary]
  simp [Run.went, Run.halt, FaultKind.toFault, hs.boundary]

/-- Settles O6: the fetch has the instruction, or for JSR one with the same meaning, and leaves `State.fetched`. -/
theorem stepRunsDecodedInstruction : Obligations.StepRunsDecodedInstruction := by
  unfold Obligations.StepRunsDecodedInstruction
  intro s bytes rest i b hs hd hb
  obtain ⟨hlen, hne⟩ := decode_fetched hd
  have hfetch := (fetchInstr_decoded s.enter.sampled hd).1
  simp only [Run.sampled_bus, Run.sampled_regs, State.enter_bus, State.enter_regs] at hfetch
  obtain ⟨j, hj, he⟩ := hfetch b hb
  have hlatch : s.enter.sampled.q.latch = .fresh := by rw [State.sampled_boundary hs.boundary]
  rw [hs.step, runInstruction, he, hlatch]
  simp only
  rw [hj, ← State.sampled_leave hs.boundary hne, hlen]

end Sys2Proof.Machine
end

section
/-! PROOFS. All instructions (42_load_store_transfer.md R500; 41_addressing_pipeline.md R450, R490, R491): what any
meaning can do, whatever the instruction. -/

namespace Sys2Proof.Machine

/-- Everything an instruction's meaning can do: it completes after as many bus cycles as the opcode table says, none of
them a write unless `writesMemory` says so; or it faults at an unmapped address. -/
theorem exec_ends (i : Instr) (s : State) :
    (∃ cs b g, s.bus.replay cs = some b ∧ baseCycles i ≤ fetchCycles i + cs.length ∧
      fetchCycles i + cs.length ≤ baseCycles i + maxExtraCycles i ∧ WritesOnlyIf (writesMemory i) cs ∧
      exec i s = .next (s.after cs b g)) ∨
    (∃ a acc cs b, s.bus.replay cs = some b ∧ b.mapped a = false ∧
      exec i s = .fault (.unmappedAccess a acc (s.faulted cs b (.unmappedAccess a acc)))) := by
  obtain ⟨⟨-, hfetch, -, -⟩, m, hm, hdoes⟩ := exec_does i
  rw [hm]
  rcases hdoes.runSeq s with
    ⟨cs, b, g, hreplay, hleast, hmost, hwrites, -, hrun⟩ | ⟨a, acc, cs, b, hreplay, hmap, -, -, hrun⟩
  · exact .inl ⟨cs, b, g, hreplay, by omega, by omega, hwrites, hrun⟩
  · exact .inr ⟨a, acc, cs, b, hreplay, hmap, hrun⟩

/-- An instruction that answers a next state completed. -/
theorem exec_next {i : Instr} {s t : State} (ht : exec i s = .next t) :
    ∃ cs b g, s.bus.replay cs = some b ∧ baseCycles i ≤ fetchCycles i + cs.length ∧
      fetchCycles i + cs.length ≤ baseCycles i + maxExtraCycles i ∧ WritesOnlyIf (writesMemory i) cs ∧
      t = s.after cs b g := by
  rcases exec_ends i s with ⟨cs, b, g, hreplay, hleast, hmost, hwrites, hrun⟩ | ⟨a, acc, cs, b, -, -, hrun⟩
  · exact ⟨cs, b, g, hreplay, hleast, hmost, hwrites, Host.Outcome.next.inj (ht.symm.trans hrun)⟩
  · rw [hrun] at ht
    cases ht

/-- Settles O18: the fault of `exec_ends` is at an unmapped address, and no bus cycle unmaps one. -/
theorem execCompletesWhereMapped : Obligations.ExecCompletesWhereMapped := by
  unfold Obligations.ExecCompletesWhereMapped
  intro i s hall
  rcases exec_ends i s with ⟨cs, b, g, hreplay, -, -, -, hrun⟩ | ⟨a, acc, cs, b, hreplay, hmap, -⟩
  · exact ⟨cs, b, g, hreplay, hrun⟩
  · rw [(Bus.replay_sameMap hreplay).mapped, hall] at hmap
    cases hmap

/-- Settles O19: the other way an instruction can end. -/
theorem execFaultsOnlyWhereUnmapped : Obligations.ExecFaultsOnlyWhereUnmapped := by
  unfold Obligations.ExecFaultsOnlyWhereUnmapped
  intro i s f hf
  rcases exec_ends i s with ⟨cs, b, g, -, -, -, -, hrun⟩ | ⟨a, acc, cs, b, hreplay, hmap, hrun⟩
  · rw [hrun] at hf
    cases hf
  · exact ⟨a, acc, cs, b, hreplay, hmap, Host.Outcome.fault.inj (hf.symm.trans hrun)⟩

/-- Settles O20: the cycles counted are those of `exec_next`. -/
theorem execCycleCounts : Obligations.ExecCycleCounts := by
  unfold Obligations.ExecCycleCounts
  intro i s t ht
  obtain ⟨cs, b, g, -, hleast, hmost, -, rfl⟩ := exec_next ht
  exact ⟨cs.length, rfl, hleast, hmost⟩

/-- Settles O52: without a write cycle, no byte of memory changes. -/
theorem nonStoringKeepMemory : Obligations.NonStoringKeepMemory := by
  unfold Obligations.NonStoringKeepMemory
  intro i s t ht hw a
  obtain ⟨cs, b, g, hreplay, -, -, hwrites, rfl⟩ := exec_next ht
  refine Bus.replay_peek hreplay fun c hc hwrite => ?_
  rw [hw] at hwrites
  exact absurd (hwrites c hc hwrite) Bool.false_ne_true

end Sys2Proof.Machine
end

section
/-! PROOFS. The addressing modes and access classes (41_addressing_pipeline.md), instruction by instruction: each
meaning is one sequence, made of its mode and its operation, and `Tracks` says what that sequence does. -/

namespace Sys2Proof.Machine

/-- What an instruction answers whose meaning is a sequence with these cycles. -/
theorem exec_tracks {i : Instr} {m : M Unit} {s : State} {cs : List BusCycle} {g : Regs} {l : Latches}
    (hexec : ∀ s, exec i s = runSeq m s) (h : Tracks m s.regs s.enter.q.latch cs () g l) :
    (∀ b, s.bus.replay cs = some b → exec i s = .next (s.after cs b g)) ∧ FaultsAlong (exec i) s cs := by
  rw [show exec i = runSeq m from funext hexec]
  exact runSeq_tracks h

/-! ### Class R -/

/-- Settles O21: `runSeq_readImm`, for the operation of each instruction. -/
theorem immediateReads : Obligations.ImmediateReads := by
  unfold Obligations.ImmediateReads
  intro p hp s b1
  have hexec : ∀ b1 s, exec (p.1 b1) s = runSeq (readImm b1 p.2) s := by
    fin_cases hp <;> exact fun _ _ => rfl
  rw [hexec]
  exact runSeq_readImm b1 p.2 s

/-- Settles O22: the cycles of `eaZp` and the read. -/
theorem zeroPageReads : Obligations.ZeroPageReads := by
  unfold Obligations.ZeroPageReads
  intro p hp s b1 v
  have hexec : ∀ b1 s, exec (p.1 b1) s = runSeq (readOperand (eaZp b1) p.2) s := by
    fin_cases hp <;> exact fun _ _ => rfl
  exact exec_tracks (hexec b1) (readOperand_tracks p.2 v (eaZp_tracks b1 _ _))

/-- Settles O23: the cycles of `eaZpIndexed` and the read. -/
theorem zeroPageIndexedReads : Obligations.ZeroPageIndexedReads := by
  unfold Obligations.ZeroPageIndexedReads
  intro p hp s b1 u v
  have hexec : ∀ b1 s, exec (p.1 b1) s = runSeq (readOperand (eaZpIndexed p.2.1 b1) p.2.2) s := by
    fin_cases hp <;> exact fun _ _ => rfl
  exact exec_tracks (hexec b1) (readOperand_tracks p.2.2 v (eaZpIndexed_tracks p.2.1 b1 u _ _))

/-- Settles O24: the cycles of `eaAbs` and the read. -/
theorem absoluteReads : Obligations.AbsoluteReads := by
  unfold Obligations.AbsoluteReads
  intro p hp s b1 b2 v
  have hexec : ∀ b1 b2 s, exec (p.1 b1 b2) s = runSeq (readOperand (eaAbs b1 b2) p.2) s := by
    fin_cases hp <;> exact fun _ _ _ => rfl
  exact exec_tracks (hexec b1 b2) (readOperand_tracks p.2 v (eaAbs_tracks b1 b2 _ _))

/-- The fix-up read of class R comes before the operand's cycle exactly if the low bytes carry (R465). -/
theorem fixupReads_onCross_append (hi lo idx u : Byte) (c : BusCycle) :
    fixupReads .onCross hi lo idx u ++ [c] =
      if lo.toNat + idx.toNat ≤ 0xFF then [c] else [rd (word hi (lo + idx)) u, c] := by
  split
  · rw [fixupReads_direct hi u (by simpa [crosses]), List.nil_append]
  · rw [fixupReads_crossing _ hi u (by simp only [crosses, decide_eq_true_eq]; omega), List.singleton_append]

/-- Settles O25: the cycles of `eaAbsIndexed` and the read. -/
theorem absoluteIndexedReads : Obligations.AbsoluteIndexedReads := by
  unfold Obligations.AbsoluteIndexedReads
  intro p hp s b1 b2 u v idx ea cs
  have hexec : ∀ b1 b2 s, exec (p.1 b1 b2) s = runSeq (readOperand (eaAbsIndexed .onCross p.2.1 b1 b2) p.2.2) s := by
    fin_cases hp <;> exact fun _ _ _ => rfl
  have hcs : fixupReads .onCross b2 b1 idx u ++ [rd ea v] = cs := fixupReads_onCross_append b2 b1 idx u (rd ea v)
  rw [← hcs]
  exact exec_tracks (hexec b1 b2) (readOperand_tracks p.2.2 v (eaAbsIndexed_tracks .onCross p.2.1 b1 b2 u _ _))

/-- Settles O26: the cycles of `eaIzx` and the read. -/
theorem indexedIndirectReads : Obligations.IndexedIndirectReads := by
  unfold Obligations.IndexedIndirectReads
  intro p hp s b1 u lo hi v
  have hexec : ∀ b1 s, exec (p.1 b1) s = runSeq (readOperand (eaIzx b1) p.2) s := by
    fin_cases hp <;> exact fun _ _ => rfl
  exact exec_tracks (hexec b1) (readOperand_tracks p.2 v (eaIzx_tracks b1 u lo hi _ _))

/-- Settles O27: the cycles of `eaIzy` and the read. -/
theorem indirectIndexedReads : Obligations.IndirectIndexedReads := by
  unfold Obligations.IndirectIndexedReads
  intro p hp s b1 lo hi u v y ea cs
  have hexec : ∀ b1 s, exec (p.1 b1) s = runSeq (readOperand (eaIzy .onCross b1) p.2) s := by
    fin_cases hp <;> exact fun _ _ => rfl
  have hcs :
      ([rd (word 0x00 b1) lo, rd (word 0x00 (b1 + 1)) hi] ++ fixupReads .onCross hi lo y u) ++ [rd ea v] = cs := by
    rw [List.append_assoc, fixupReads_onCross_append]
  rw [← hcs]
  exact exec_tracks (hexec b1) (readOperand_tracks p.2 v (eaIzy_tracks .onCross b1 lo hi u _ _))

/-! ### Classes W and M -/

/-- Settles O28: the cycles of each mode and the write. -/
theorem directStores : Obligations.DirectStores := by
  unfold Obligations.DirectStores
  refine ⟨?zp, ?abs, ?indexed⟩
  case zp =>
    intro p hp s b1
    have hexec : ∀ b1 s, exec (p.1 b1) s = runSeq (writeOperand (eaZp b1) p.2) s := by
      fin_cases hp <;> exact fun _ _ => rfl
    exact exec_tracks (hexec b1) (writeOperand_tracks p.2 (eaZp_tracks b1 _ _))
  case abs =>
    intro p hp s b1 b2
    have hexec : ∀ b1 b2 s, exec (p.1 b1 b2) s = runSeq (writeOperand (eaAbs b1 b2) p.2) s := by
      fin_cases hp <;> exact fun _ _ _ => rfl
    exact exec_tracks (hexec b1 b2) (writeOperand_tracks p.2 (eaAbs_tracks b1 b2 _ _))
  case indexed =>
    intro p hp s b1 u
    have hexec : ∀ b1 s, exec (p.1 b1) s = runSeq (writeOperand (eaZpIndexed p.2.1 b1) p.2.2) s := by
      fin_cases hp <;> exact fun _ _ => rfl
    exact exec_tracks (hexec b1) (writeOperand_tracks p.2.2 (eaZpIndexed_tracks p.2.1 b1 u _ _))

/-- Settles O29: the cycles of each mode, with its fix-up read always, and the write. -/
theorem indexedStores : Obligations.IndexedStores := by
  unfold Obligations.IndexedStores
  refine ⟨?abs, ?izx, ?izy⟩
  case abs =>
    intro p hp s b1 b2 u
    have hexec : ∀ b1 b2 s, exec (p.1 b1 b2) s = runSeq (writeOperand (eaAbsIndexed .always p.2 b1 b2) Regs.a) s := by
      fin_cases hp <;> exact fun _ _ _ => rfl
    exact exec_tracks (hexec b1 b2) (writeOperand_tracks Regs.a (eaAbsIndexed_tracks .always p.2 b1 b2 u _ _))
  case izx =>
    intro s b1 u lo hi
    exact exec_tracks (fun _ => rfl) (writeOperand_tracks Regs.a (eaIzx_tracks b1 u lo hi _ _))
  case izy =>
    intro s b1 lo hi u
    exact exec_tracks (fun _ => rfl) (writeOperand_tracks Regs.a (eaIzy_tracks .always b1 lo hi u _ _))

/-- Settles O30: the cycles of each mode, then the read and the two writes. -/
theorem readModifyWrites : Obligations.ReadModifyWrites := by
  unfold Obligations.ReadModifyWrites
  refine ⟨?zp, ?zpx, ?abs, ?absx⟩
  case zp =>
    intro p hp s b1 v
    have hexec : ∀ b1 s, exec (p.1 b1) s = runSeq (modifyOperand (eaZp b1) p.2) s := by
      fin_cases hp <;> exact fun _ _ => rfl
    exact exec_tracks (hexec b1) (modifyOperand_tracks p.2 v (eaZp_tracks b1 _ _))
  case zpx =>
    intro p hp s b1 u v
    have hexec : ∀ b1 s, exec (p.1 b1) s = runSeq (modifyOperand (eaZpx b1) p.2) s := by
      fin_cases hp <;> exact fun _ _ => rfl
    exact exec_tracks (hexec b1) (modifyOperand_tracks p.2 v (eaZpx_tracks b1 u _ _))
  case abs =>
    intro p hp s b1 b2 v
    have hexec : ∀ b1 b2 s, exec (p.1 b1 b2) s = runSeq (modifyOperand (eaAbs b1 b2) p.2) s := by
      fin_cases hp <;> exact fun _ _ _ => rfl
    exact exec_tracks (hexec b1 b2) (modifyOperand_tracks p.2 v (eaAbs_tracks b1 b2 _ _))
  case absx =>
    intro p hp s b1 b2 u v
    have hexec : ∀ b1 b2 s, exec (p.1 b1 b2) s = runSeq (modifyOperand (eaAbsx .always b1 b2) p.2) s := by
      fin_cases hp <;> exact fun _ _ _ => rfl
    exact exec_tracks (hexec b1 b2) (modifyOperand_tracks p.2 v (eaAbsx_tracks .always b1 b2 u _ _))

/-! ### Class I -/

/-- Settles O31: the discarded read at PC, then the operation. -/
theorem impliedAndAccumulator : Obligations.ImpliedAndAccumulator := by
  unfold Obligations.ImpliedAndAccumulator
  refine ⟨?implied, ?accumulator⟩
  case implied =>
    intro p hp s u
    have hexec : ∀ s, exec p.1 s = runSeq (implied p.2) s := by
      fin_cases hp <;> exact fun _ => rfl
    exact exec_tracks hexec (implied_tracks p.2 u _ _)
  case accumulator =>
    intro p hp s u
    have hexec : ∀ s, exec p.1 s = runSeq (accumulator p.2) s := by
      fin_cases hp <;> exact fun _ => rfl
    exact exec_tracks hexec (accumulator_tracks p.2 u _ _)

/-! ### Branches and the sequences of their own -/

/-- Settles O32: not taken, taken in the page, taken across. -/
theorem branchResults : Obligations.BranchResults := by
  unfold Obligations.BranchResults
  intro p hp s b1 u v pcn target cs
  have hexec : ∀ b1 s, exec (p.1 b1) s = runSeq (branch p.2 b1) s := by
    fin_cases hp <;> exact fun _ _ => rfl
  cases ht : p.2 s.regs with
  | false =>
    simp only [cs, ht, if_true]
    exact exec_tracks (hexec b1) (branch_not_taken b1 _ ht)
  | true =>
    simp only [cs, ht, Bool.true_eq_false, if_false]
    by_cases hpage : hi8 target = hi8 pcn
    · rw [if_pos hpage]
      exact exec_tracks (hexec b1) (branch_taken u _ ht hpage)
    · rw [if_neg hpage]
      exact exec_tracks (hexec b1) (branch_crossing u v _ ht hpage)

/-- Settles O33: the cycles of each sequence after its fetch. -/
theorem jumpAndSubroutineResults : Obligations.JumpAndSubroutineResults := by
  unfold Obligations.JumpAndSubroutineResults
  refine ⟨?jmpAbs, ?jmpInd, ?jsr, ?rts⟩
  case jmpAbs =>
    intro s b1 b2
    exact (exec_tracks (fun _ => rfl) (jmpAbs_tracks b1 b2 _ _)).1 s.bus ((Bus.replay_nil _ _).mpr rfl)
  case jmpInd =>
    intro s b1 b2 lo hi
    exact exec_tracks (fun _ => rfl) (jmpInd_tracks b1 b2 lo hi _ _)
  case jsr =>
    intro s b1 b2 u hi
    have htracks := jsrAbs_tracks b1 u hi s.regs s.enter.q.latch
    rw [sub_one_sub_one] at htracks
    exact exec_tracks (fun _ => rfl) htracks
  case rts =>
    intro s u v lo hi w
    have htracks := rts_tracks u v lo hi w s.regs s.enter.q.latch
    rw [add_one_add_one] at htracks
    exact exec_tracks (fun _ => rfl) htracks

/-- Settles O34: interrupt entry after the padding byte, and the return. -/
theorem breakAndReturnResults : Obligations.BreakAndReturnResults := by
  unfold Obligations.BreakAndReturnResults
  refine ⟨?brk, ?rti⟩
  case brk =>
    intro s u lo hi
    have htracks := brk_tracks u lo hi s.regs s.enter.q.latch
    rw [sub_one_sub_one_sub_one, sub_one_sub_one] at htracks
    exact exec_tracks (fun _ => rfl) htracks
  case rti =>
    intro s u v p lo hi
    have htracks := rti_tracks u v p lo hi s.regs s.enter.q.latch
    rw [add_one_add_one_add_one, add_one_add_one] at htracks
    exact exec_tracks (fun _ => rfl) htracks

/-- Settles O35: the discarded read at PC, then the push or the pull. -/
theorem pushAndPullResults : Obligations.PushAndPullResults := by
  unfold Obligations.PushAndPullResults
  refine ⟨?push, ?pull⟩
  case push =>
    intro p hp s u
    have hexec : ∀ s, exec p.1 s = runSeq (pushInstr p.2) s := by
      fin_cases hp <;> exact fun _ => rfl
    exact exec_tracks hexec (pushInstr_tracks p.2 u _ _)
  case pull =>
    intro s u v w g cs
    obtain ⟨hpla, hplaFault⟩ := exec_tracks (i := .pla) (fun _ => rfl)
      (pullInstr_tracks (fun v g => { g.nz v with a := v }) u v w _ _)
    obtain ⟨hplp, hplpFault⟩ := exec_tracks (i := .plp) (fun _ => rfl)
      (pullInstr_tracks (fun v g => g.loadP v) u v w _ _)
    exact ⟨fun b hb => ⟨hpla b hb, hplp b hb⟩, hplaFault, hplpFault⟩

end Sys2Proof.Machine
end

section
/-! PROOFS. What the operations compute (42_load_store_transfer.md, 43_arithmetic.md, 44_logic_shift.md): the model's
bit operations as arithmetic on numbers. -/

namespace Sys2Proof.Machine

/-! ### Bits and signs of a byte -/

/-- The sign bit of a byte. -/
theorem getLsbD_seven (b : Byte) : b.getLsbD 7 = decide (128 ≤ b.toNat) :=
  b.msb_eq_decide

theorem getLsbD_seven_ofNat (k : Nat) : (BitVec.ofNat 8 k).getLsbD 7 = decide (128 ≤ k % 256) := by
  rw [getLsbD_seven, BitVec.toNat_ofNat]

/-- A byte as a two's-complement number. -/
theorem toInt_byte (b : Byte) : b.toInt = if 128 ≤ b.toNat then (b.toNat : Int) - 256 else b.toNat := by
  rw [BitVec.toInt_eq_toNat_cond]
  split <;> split <;> omega

/-- Settles O36: each operation is defined as its rule writes it. -/
theorem registerOperationValues : Obligations.RegisterOperationValues := by
  unfold Obligations.RegisterOperationValues
  refine ⟨fun m g => ⟨rfl, rfl, rfl⟩, fun g => ?_⟩
  exact ⟨rfl, rfl, rfl, rfl, rfl, rfl, rfl, rfl, rfl, rfl, rfl, rfl, rfl, rfl, rfl, rfl, rfl⟩

/-! ### Counts, shifts and rotates -/

theorem add_one_eq_ofNat (v : Byte) : v + 1 = BitVec.ofNat 8 (v.toNat + 1) := by
  bv_omega

theorem sub_one_eq_ofInt (v : Byte) : v - 1 = BitVec.ofInt 8 ((v.toNat : Int) - 1) := by
  bv_omega

theorem shiftLeft_one_eq_ofNat (v : Byte) : v <<< 1 = BitVec.ofNat 8 (v.toNat * 2) := by
  refine BitVec.eq_of_toNat_eq ?_
  rw [BitVec.toNat_shiftLeft, Nat.shiftLeft_eq, BitVec.toNat_ofNat]

theorem ushiftRight_one_eq_ofNat (v : Byte) : v >>> 1 = BitVec.ofNat 8 (v.toNat / 2) := by
  have hv := v.isLt
  refine BitVec.eq_of_toNat_eq ?_
  rw [BitVec.toNat_ushiftRight, Nat.shiftRight_eq_div_pow, BitVec.toNat_ofNat]
  omega

/-- LSR clears N: the sign bit of half a byte is 0. -/
theorem getLsbD_seven_half (v : Byte) : (BitVec.ofNat 8 (v.toNat / 2)).getLsbD 7 = false := by
  have hv := v.isLt
  rw [getLsbD_seven_ofNat, decide_eq_false_iff_not]
  omega

/-- ROR puts the carry into N. -/
theorem getLsbD_seven_rotated (v : Byte) (c : Bool) :
    (BitVec.ofNat 8 (v.toNat / 2 + 0x80 * c.toNat)).getLsbD 7 = c := by
  have hv := v.isLt
  rw [getLsbD_seven_ofNat]
  cases c
  · rw [decide_eq_false_iff_not, Bool.toNat_false]
    omega
  · rw [decide_eq_true_iff, Bool.toNat_true]
    omega

/-- Settles O37: the logic is the model's own, the counts and shifts are the equations above. -/
theorem logicAndShiftValues : Obligations.LogicAndShiftValues := by
  unfold Obligations.LogicAndShiftValues
  refine ⟨fun m g => ⟨rfl, rfl, rfl, rfl⟩, ?numbers⟩
  case numbers =>
    intro v g flags inc dec asl lsr rol ror
    have hinc : v + 1 = inc := add_one_eq_ofNat v
    have hdec : v - 1 = dec := sub_one_eq_ofInt v
    have hasl : v <<< 1 = asl := shiftLeft_one_eq_ofNat v
    have hlsr : v >>> 1 = lsr := ushiftRight_one_eq_ofNat v
    have hlsrN : lsr.getLsbD 7 = false := getLsbD_seven_half v
    have hrorN : ror.getLsbD 7 = g.c := getLsbD_seven_rotated v g.c
    refine ⟨?inc, ?dec, ?asl, ?lsr, rfl, ?ror⟩
    case inc => rw [incByte, hinc]; rfl
    case dec => rw [decByte, hdec]; rfl
    case asl => rw [aslByte, hasl]; rfl
    case lsr => rw [lsrByte, hlsr, ← hlsrN]; rfl
    case ror => rw [show rorByte v g = (ror, flags ror (v.getLsbD 0)) from rfl, ← hrorN]

/-! ### Binary addition and subtraction -/

/-- R551: the operands agree in sign and the result does not, exactly if the signed sum leaves -128 to 127. -/
theorem additionOverflow_eq (a m : Byte) (c : Bool) :
    let r := BitVec.ofNat 8 (a.toNat + m.toNat + c.toNat)
    let signed := a.toInt + m.toInt + c.toNat
    ((a ^^^ r) &&& (m ^^^ r)).getLsbD 7 = decide (signed < -128 ∨ 127 < signed) := by
  intro r signed
  have ha := a.isLt
  have hm := m.isLt
  have hc := Bool.toNat_le c
  have hr : r.toNat = (a.toNat + m.toNat + c.toNat) % 256 := BitVec.toNat_ofNat _ _
  simp only [BitVec.getLsbD_and, BitVec.getLsbD_xor]
  rw [Bool.eq_iff_iff]
  simp only [signed, toInt_byte, getLsbD_seven, Bool.and_eq_true, bne_iff_ne, ne_eq, decide_eq_decide,
    decide_eq_true_eq]
  split <;> split <;> omega

/-- R551: the registers after a binary ADC, with the sum `t`. -/
theorem Regs.adc_of_binary {g : Regs} (m : Byte) (hd : g.d = false) :
    let t := g.a.toNat + m.toNat + g.c.toNat
    Regs.adc m g = { g with
      a := BitVec.ofNat 8 t
      c := decide (0xFF < t)
      v := ((g.a ^^^ BitVec.ofNat 8 t) &&& (m ^^^ BitVec.ofNat 8 t)).getLsbD 7
      z := BitVec.ofNat 8 t == 0
      n := (BitVec.ofNat 8 t).getLsbD 7 } := by
  rw [Regs.adc, if_neg (by simp [hd])]
  rfl

/-- Settles O38: the V flag is `additionOverflow_eq`, the rest is the 9-bit sum. -/
theorem binaryAddition : Obligations.BinaryAddition := by
  unfold Obligations.BinaryAddition
  intro m g hd t signed
  rw [Regs.adc_of_binary m hd, additionOverflow_eq, ofNat_beq_zero, getLsbD_seven_ofNat]

/-- R553: the operands differ in sign, and the result differs from the accumulator. -/
theorem subtractionOverflow_eq (a m r : Byte) :
    ((a ^^^ m) &&& (a ^^^ r)).getLsbD 7 = decide (a.getLsbD 7 ≠ m.getLsbD 7 ∧ a.getLsbD 7 ≠ r.getLsbD 7) := by
  simp only [BitVec.getLsbD_and, BitVec.getLsbD_xor]
  cases a.getLsbD 7 <;> cases m.getLsbD 7 <;> cases r.getLsbD 7 <;> rfl

/-- Adding the complement overflows exactly where subtracting does. -/
theorem complementOverflow_eq (a m r : Byte) :
    ((a ^^^ r) &&& ((m ^^^ 0xFF) ^^^ r)).getLsbD 7 = ((a ^^^ m) &&& (a ^^^ r)).getLsbD 7 := by
  have hmask : (0xFF : Byte).getLsbD 7 = true := rfl
  simp only [BitVec.getLsbD_and, BitVec.getLsbD_xor, hmask]
  cases a.getLsbD 7 <;> cases m.getLsbD 7 <;> cases r.getLsbD 7 <;> rfl

theorem xor_0xFF_toNat (m : Byte) : (m ^^^ 0xFF).toNat = 255 - m.toNat := by
  have hmask : (0xFF : Byte) = BitVec.allOnes 8 := by decide
  rw [hmask, BitVec.xor_allOnes, BitVec.toNat_not]

/-- The sum of ADC of the complement is the difference of SBC and a carry out of the byte. -/
theorem complementSum_eq (a m : Byte) (c : Bool) :
    ((a.toNat + (m ^^^ 0xFF).toNat + c.toNat : Nat) : Int) = sbcDifference a m c + 256 := by
  have hm := m.isLt
  rw [xor_0xFF_toNat, sbcDifference, bit]
  omega

/-- R553: with D = 0, SBC is ADC of the complement. -/
theorem Regs.sbc_of_binary {g : Regs} (m : Byte) (hd : g.d = false) : Regs.sbc m g = Regs.adc (m ^^^ 0xFF) g := by
  have hsum := complementSum_eq g.a m g.c
  have hr : BitVec.ofNat 8 (g.a.toNat + (m ^^^ 0xFF).toNat + g.c.toNat) = BitVec.ofInt 8 (sbcDifference g.a m g.c) := by
    rw [← BitVec.ofInt_natCast, hsum]
    bv_omega
  have hc : decide (0xFF < g.a.toNat + (m ^^^ 0xFF).toNat + g.c.toNat) = decide (sbcDifference g.a m g.c ≥ 0) :=
    decide_eq_decide.mpr (by omega)
  rw [Regs.adc_of_binary _ hd, hr, complementOverflow_eq, hc, Regs.sbc]
  simp only [hd, Bool.false_eq_true, if_false]

/-- Settles O40: the flags are those of the binary difference in either mode. -/
theorem subtractionLaws : Obligations.SubtractionLaws := by
  unfold Obligations.SubtractionLaws
  intro m g t diff r
  refine ⟨?flags, fun hd => ⟨?accumulator, Regs.sbc_of_binary m hd⟩⟩
  case flags =>
    rw [← subtractionOverflow_eq, ← beq_eq_decide]
    rfl
  case accumulator =>
    simp only [r, Regs.sbc, hd, Bool.false_eq_true, if_false]
    rfl

/-! ### Decimal subtraction (R554, decision D1) -/

/-- The low digit of R554, over the low digits of the operands. -/
theorem sbcLowDigit_eq (a m : Byte) (c : Bool) :
    sbcLowDigit a m c =
      let al : Int := (a.toNat % 16 : Nat) - (m.toNat % 16 : Nat) + c.toNat - 1
      if al < 0 then (al - 0x06) % 16 - 0x10 else al := by
  rw [sbcLowDigit, and_0x0F_toNat, and_0x0F_toNat]
  rfl

/-- R554 for every input, over the high digits of the operands. -/
theorem decimalSub_eq (a m : Byte) (c : Bool) :
    decimalSub a m c =
      let t : Int := (a.toNat / 16 * 16 : Nat) - (m.toNat / 16 * 16 : Nat) + sbcLowDigit a m c
      BitVec.ofInt 8 (if t < 0 then t - 0x60 else t) := by
  rw [decimalSub, and_0xF0_toNat, and_0xF0_toNat]

/-- Taking 6 away borrows the ten of a low digit difference from the next digit. -/
theorem lowDigit_borrow {k : Int} (hk : -10 ≤ k) (hk' : k ≤ 9) :
    (if k < 0 then (k - 0x06) % 16 - 0x10 else k) = k / 10 * 16 + k % 10 := by
  split <;> omega

/-- Taking 0x60 away borrows the ten of a high digit difference from outside the byte. -/
theorem highDigit_borrow {h l : Int} (hl : 0 ≤ l) (hl' : l ≤ 9) (hh : -10 ≤ h) (hh' : h ≤ 9) :
    (if h * 16 + l < 0 then h * 16 + l - 0x60 else h * 16 + l) = h / 10 * 256 + h % 10 * 16 + l := by
  split <;> omega

/-- Both borrows on valid digits: the decimal difference modulo 100, as two digits. -/
theorem decimalSub_of_digits {a m : Byte} (c : Bool)
    (hal : a.toNat % 16 ≤ 9) (hah : a.toNat / 16 ≤ 9) (hml : m.toNat % 16 ≤ 9) (hmh : m.toNat / 16 ≤ 9) :
    let diff : Int :=
      (a.toNat / 16 * 10 + a.toNat % 16 : Nat) - (m.toNat / 16 * 10 + m.toNat % 16 : Nat) - (1 - c.toNat)
    ((decimalSub a m c).toNat : Int) = diff % 100 / 10 * 16 + diff % 10 := by
  intro diff
  have hc := Bool.toNat_le c
  obtain ⟨k, hk⟩ : ∃ k : Int, k = (a.toNat % 16 : Nat) - (m.toNat % 16 : Nat) + c.toNat - 1 := ⟨_, rfl⟩
  obtain ⟨h, hh⟩ : ∃ h : Int, h = (a.toNat / 16 : Nat) - (m.toNat / 16 : Nat) + k / 10 := ⟨_, rfl⟩
  have hlow : sbcLowDigit a m c = k / 10 * 16 + k % 10 := by
    rw [sbcLowDigit_eq, ← hk]
    exact lowDigit_borrow (by omega) (by omega)
  have hdiff : diff = h * 10 + k % 10 := by omega
  have ht : (a.toNat / 16 * 16 : Nat) - (m.toNat / 16 * 16 : Nat) + sbcLowDigit a m c = h * 16 + k % 10 := by omega
  rw [decimalSub_eq, ht]
  simp only
  rw [highDigit_borrow (by omega) (by omega) (by omega) (by omega), BitVec.toNat_ofInt]
  have htens : diff % 100 / 10 = h % 10 := by omega
  have hunits : diff % 10 = k % 10 := by omega
  rw [htens, hunits]
  omega

/-- Settles O41: every input is `decimalSub`; on valid digits `decimalSub_of_digits`, and C says which operand is the
greater. -/
theorem decimalSubtraction : Obligations.DecimalSubtraction := by
  unfold Obligations.DecimalSubtraction
  intro m g hd al al' t r
  have hra : r.a = decimalSub g.a m g.c := if_pos hd
  have hlow : sbcLowDigit g.a m g.c = al' := sbcLowDigit_eq g.a m g.c
  refine ⟨by rw [hra, decimalSub_eq, hlow], ?digits⟩
  case digits =>
    intro hal hah hml hmh diff
    have hc := Bool.toNat_le g.c
    have hrc : r.c = decide (sbcDifference g.a m g.c ≥ 0) := rfl
    refine ⟨by rw [hra]; exact decimalSub_of_digits g.c hal hah hml hmh, ?_⟩
    rw [hrc, decide_eq_true_iff, sbcDifference, bit]
    omega

end Sys2Proof.Machine
end

section
/-! PROOFS. Frames of the registers and flags (10_state.md R101 to R105, R113, R114): what the operation of each
mnemonic leaves alone, and that every instruction's meaning does no more to the registers than its operation. -/

namespace Sys2Proof.Machine

/-- What the operation of a mnemonic leaves of A, X, Y, S and PC. -/
def KeepsRegisters (mn : Mnemonic) (g g' : Regs) : Prop :=
  (mn ∉ [.lda, .adc, .sbc, .and, .ora, .eor, .txa, .tya, .pla] → g'.a = g.a) ∧
  (mn ∉ [.ldx, .tax, .tsx, .inx, .dex] → g'.x = g.x) ∧
  (mn ∉ [.ldy, .tay, .iny, .dey] → g'.y = g.y) ∧
  (mn ∉ [.pha, .php, .jsr, .brk, .pla, .plp, .rts, .rti, .txs] → g'.s = g.s) ∧
  (mn ∉ [.bpl, .bmi, .bvc, .bvs, .bcc, .bcs, .bne, .beq, .jmp, .jsr, .rts, .brk, .rti] → g'.pc = g.pc)

/-- What the operation of a mnemonic leaves of the six flags. -/
def KeepsFlags (mn : Mnemonic) (g g' : Regs) : Prop :=
  (mn ∉ [.adc, .sbc, .cmp, .cpx, .cpy, .asl, .lsr, .rol, .ror, .clc, .sec, .plp, .rti] → g'.c = g.c) ∧
  (mn ∉ [.lda, .ldx, .ldy, .tax, .tay, .tsx, .txa, .tya, .pla, .and, .ora, .eor, .adc, .sbc, .inc, .dec,
      .inx, .iny, .dex, .dey, .asl, .lsr, .rol, .ror, .cmp, .cpx, .cpy, .bit, .plp, .rti] →
    g'.z = g.z ∧ g'.n = g.n) ∧
  (mn ∉ [.sei, .cli, .plp, .rti, .brk] → g'.i = g.i) ∧
  (mn ∉ [.sed, .cld, .plp, .rti] → g'.d = g.d) ∧
  (mn ∉ [.adc, .sbc, .bit, .clv, .plp, .rti] → g'.v = g.v)

/-- The registers `g'` that the operation of a mnemonic can make of `g`, whatever byte it reads and whatever PC it goes
to. -/
def Effect (mn : Mnemonic) (g g' : Regs) : Prop :=
  match mn with
  | .lda => ∃ v, g' = Regs.lda v g
  | .ldx => ∃ v, g' = Regs.ldx v g
  | .ldy => ∃ v, g' = Regs.ldy v g
  | .adc => ∃ v, g' = Regs.adc v g
  | .sbc => ∃ v, g' = Regs.sbc v g
  | .cmp => ∃ v, g' = Regs.cmp v g
  | .cpx => ∃ v, g' = Regs.cpx v g
  | .cpy => ∃ v, g' = Regs.cpy v g
  | .and => ∃ v, g' = Regs.and v g
  | .ora => ∃ v, g' = Regs.ora v g
  | .eor => ∃ v, g' = Regs.eor v g
  | .bit => ∃ v, g' = Regs.bitTest v g
  | .inc => ∃ v, g' = (incByte v g).2
  | .dec => ∃ v, g' = (decByte v g).2
  | .asl => ∃ v, g' = (aslByte v g).2
  | .lsr => ∃ v, g' = (lsrByte v g).2
  | .rol => ∃ v, g' = (rolByte v g).2
  | .ror => ∃ v, g' = (rorByte v g).2
  | .sta | .stx | .sty | .nop => g' = g
  | .tax => g' = g.tax
  | .tay => g' = g.tay
  | .tsx => g' = g.tsx
  | .txa => g' = g.txa
  | .txs => g' = g.txs
  | .tya => g' = g.tya
  | .inx => g' = g.inx
  | .iny => g' = g.iny
  | .dex => g' = g.dex
  | .dey => g' = g.dey
  | .clc => g' = g.clc
  | .sec => g' = g.sec
  | .cld => g' = g.cld
  | .sed => g' = g.sed
  | .cli => g' = g.cli
  | .sei => g' = g.sei
  | .clv => g' = g.clv
  | .bpl | .bmi | .bvc | .bvs | .bcc | .bcs | .bne | .beq | .jmp => ∃ pc, g' = { g with pc := pc }
  | .jsr => ∃ pc, g' = { g with s := g.s - 1 - 1, pc := pc }
  | .rts => ∃ pc, g' = { g with s := g.s + 1 + 1, pc := pc }
  | .brk => ∃ pc, g' = { g with s := g.s - 1 - 1 - 1, i := true, pc := pc }
  | .rti => ∃ p pc, g' = { g.loadP p with s := g.s + 1 + 1 + 1, pc := pc }
  | .pha | .php => g' = { g with s := g.s - 1 }
  | .pla => ∃ v, g' = { ({ g with s := g.s + 1 } : Regs).nz v with a := v }
  | .plp => ∃ v, g' = ({ g with s := g.s + 1 } : Regs).loadP v

/-! ### The frame of each operation -/

/-- Addition, in either mode, leaves X, Y, S, PC, I and D. -/
theorem Regs.adc_frame (m : Byte) (g : Regs) :
    (Regs.adc m g).x = g.x ∧ (Regs.adc m g).y = g.y ∧ (Regs.adc m g).s = g.s ∧ (Regs.adc m g).pc = g.pc ∧
      (Regs.adc m g).i = g.i ∧ (Regs.adc m g).d = g.d := by
  unfold Regs.adc
  split <;> exact ⟨rfl, rfl, rfl, rfl, rfl, rfl⟩

/-- What an operation does not list, its definition does not write. -/
theorem Effect.keeps {mn : Mnemonic} {g g' : Regs} (h : Effect mn g g') :
    KeepsRegisters mn g g' ∧ KeepsFlags mn g g' := by
  cases mn with
  | adc => obtain ⟨v, rfl⟩ := h; simp [KeepsRegisters, KeepsFlags, Regs.adc_frame]
  | sbc => obtain ⟨v, rfl⟩ := h; simp [KeepsRegisters, KeepsFlags, Regs.sbc]
  | lda | ldx | ldy | and | ora | eor =>
    obtain ⟨v, rfl⟩ := h
    simp [KeepsRegisters, KeepsFlags, Regs.lda, Regs.ldx, Regs.ldy, Regs.and, Regs.ora, Regs.eor]
  | cmp | cpx | cpy | bit =>
    obtain ⟨v, rfl⟩ := h
    simp [KeepsRegisters, KeepsFlags, Regs.cmp, Regs.cpx, Regs.cpy, Regs.compare, Regs.bitTest]
  | inc | dec | asl | lsr | rol | ror =>
    obtain ⟨v, rfl⟩ := h
    simp [KeepsRegisters, KeepsFlags, incByte, decByte, aslByte, lsrByte, rolByte, rorByte]
  | sta | stx | sty | nop | pha | php => obtain rfl := h; simp [KeepsRegisters, KeepsFlags]
  | tax | tay | tsx | txa | txs | tya | inx | iny | dex | dey =>
    obtain rfl := h
    simp [KeepsRegisters, KeepsFlags, Regs.tax, Regs.tay, Regs.tsx, Regs.txa, Regs.txs, Regs.tya, Regs.inx, Regs.iny,
      Regs.dex, Regs.dey]
  | clc | sec | cld | sed | cli | sei | clv =>
    obtain rfl := h
    simp [KeepsRegisters, KeepsFlags, Regs.clc, Regs.sec, Regs.cld, Regs.sed, Regs.cli, Regs.sei, Regs.clv]
  | bpl | bmi | bvc | bvs | bcc | bcs | bne | beq | jmp | jsr | rts | brk | pla | plp =>
    obtain ⟨v, rfl⟩ := h
    simp [KeepsRegisters, KeepsFlags]
  | rti => obtain ⟨p, pc, rfl⟩ := h; simp [KeepsRegisters, KeepsFlags]

/-! ### Each instruction's operation -/

/-- The registers a sequence leaves that answers a next state. -/
theorem Does.exec_regs {i : Instr} {w : Bool} {lo hi : Nat} {R : Regs → Regs → Prop} {m : M Unit} (h : Does w lo hi R m)
    (hexec : ∀ s, exec i s = Machine.runSeq m s) {s t : State} (ht : exec i s = .next t) : R s.regs t.regs := by
  rw [hexec] at ht
  rcases h.runSeq s with ⟨cs, b, g, -, -, -, -, hR, hrun⟩ | ⟨a, acc, cs, b, -, -, -, -, hrun⟩
  · rw [hrun] at ht
    cases ht
    exact hR
  · rw [hrun] at ht
    cases ht

/-- Every instruction's meaning does to the registers what its operation does, by its access class; in accumulator mode
it also puts the result into A. -/
theorem exec_effect {i : Instr} {s t : State} (ht : exec i s = .next t) :
    Effect (mnemonic i) s.regs t.regs ∨
      i ∈ [.aslAcc, .lsrAcc, .rolAcc, .rorAcc] ∧
        ∃ g a, Effect (mnemonic i) s.regs g ∧ t.regs = { g with a := a } := by
  cases i with
  | ldaImm b1 | ldxImm b1 | ldyImm b1 | adcImm b1 | sbcImm b1 | cmpImm b1 | cpxImm b1 | cpyImm b1 | andImm b1
  | oraImm b1 | eorImm b1 =>
    exact .inl ⟨b1, (readImm_does b1 _).exec_regs (fun _ => rfl) ht⟩
  | ldaZp b1 | ldxZp b1 | ldyZp b1 | adcZp b1 | sbcZp b1 | cmpZp b1 | cpxZp b1 | cpyZp b1 | andZp b1 | oraZp b1
  | eorZp b1 | bitZp b1 =>
    exact .inl ((readOperand_does _ (eaZp_does b1)).exec_regs (fun _ => rfl) ht)
  | ldaZpx b1 | ldyZpx b1 | adcZpx b1 | sbcZpx b1 | cmpZpx b1 | andZpx b1 | oraZpx b1 | eorZpx b1 =>
    exact .inl ((readOperand_does _ (eaZpx_does b1)).exec_regs (fun _ => rfl) ht)
  | ldxZpy b1 =>
    exact .inl ((readOperand_does _ (eaZpy_does b1)).exec_regs (fun _ => rfl) ht)
  | ldaAbs b1 b2 | ldxAbs b1 b2 | ldyAbs b1 b2 | adcAbs b1 b2 | sbcAbs b1 b2 | cmpAbs b1 b2 | cpxAbs b1 b2
  | cpyAbs b1 b2 | andAbs b1 b2 | oraAbs b1 b2 | eorAbs b1 b2 | bitAbs b1 b2 =>
    exact .inl ((readOperand_does _ (eaAbs_does b1 b2)).exec_regs (fun _ => rfl) ht)
  | ldaAbsx b1 b2 | ldyAbsx b1 b2 | adcAbsx b1 b2 | sbcAbsx b1 b2 | cmpAbsx b1 b2 | andAbsx b1 b2 | oraAbsx b1 b2
  | eorAbsx b1 b2 =>
    exact .inl ((readOperand_does _ (eaAbsx_does .onCross b1 b2)).exec_regs (fun _ => rfl) ht)
  | ldaAbsy b1 b2 | ldxAbsy b1 b2 | adcAbsy b1 b2 | sbcAbsy b1 b2 | cmpAbsy b1 b2 | andAbsy b1 b2 | oraAbsy b1 b2
  | eorAbsy b1 b2 =>
    exact .inl ((readOperand_does _ (eaAbsy_does .onCross b1 b2)).exec_regs (fun _ => rfl) ht)
  | ldaIzx b1 | adcIzx b1 | sbcIzx b1 | cmpIzx b1 | andIzx b1 | oraIzx b1 | eorIzx b1 =>
    exact .inl ((readOperand_does _ (eaIzx_does b1)).exec_regs (fun _ => rfl) ht)
  | ldaIzy b1 | adcIzy b1 | sbcIzy b1 | cmpIzy b1 | andIzy b1 | oraIzy b1 | eorIzy b1 =>
    exact .inl ((readOperand_does _ (eaIzy_does .onCross b1)).exec_regs (fun _ => rfl) ht)
  | staZp b1 | stxZp b1 | styZp b1 =>
    exact .inl ((writeOperand_does _ (eaZp_does b1)).exec_regs (fun _ => rfl) ht)
  | staZpx b1 | styZpx b1 =>
    exact .inl ((writeOperand_does _ (eaZpx_does b1)).exec_regs (fun _ => rfl) ht)
  | stxZpy b1 =>
    exact .inl ((writeOperand_does _ (eaZpy_does b1)).exec_regs (fun _ => rfl) ht)
  | staAbs b1 b2 | stxAbs b1 b2 | styAbs b1 b2 =>
    exact .inl ((writeOperand_does _ (eaAbs_does b1 b2)).exec_regs (fun _ => rfl) ht)
  | staAbsx b1 b2 =>
    exact .inl ((writeOperand_does _ (eaAbsx_does .always b1 b2)).exec_regs (fun _ => rfl) ht)
  | staAbsy b1 b2 =>
    exact .inl ((writeOperand_does _ (eaAbsy_does .always b1 b2)).exec_regs (fun _ => rfl) ht)
  | staIzx b1 =>
    exact .inl ((writeOperand_does _ (eaIzx_does b1)).exec_regs (fun _ => rfl) ht)
  | staIzy b1 =>
    exact .inl ((writeOperand_does _ (eaIzy_does .always b1)).exec_regs (fun _ => rfl) ht)
  | incZp b1 | decZp b1 | aslZp b1 | lsrZp b1 | rolZp b1 | rorZp b1 =>
    exact .inl ((modifyOperand_does _ (eaZp_does b1)).exec_regs (fun _ => rfl) ht)
  | incZpx b1 | decZpx b1 | aslZpx b1 | lsrZpx b1 | rolZpx b1 | rorZpx b1 =>
    exact .inl ((modifyOperand_does _ (eaZpx_does b1)).exec_regs (fun _ => rfl) ht)
  | incAbs b1 b2 | decAbs b1 b2 | aslAbs b1 b2 | lsrAbs b1 b2 | rolAbs b1 b2 | rorAbs b1 b2 =>
    exact .inl ((modifyOperand_does _ (eaAbs_does b1 b2)).exec_regs (fun _ => rfl) ht)
  | incAbsx b1 b2 | decAbsx b1 b2 | aslAbsx b1 b2 | lsrAbsx b1 b2 | rolAbsx b1 b2 | rorAbsx b1 b2 =>
    exact .inl ((modifyOperand_does _ (eaAbsx_does .always b1 b2)).exec_regs (fun _ => rfl) ht)
  | tax | tay | tsx | txa | txs | tya | inx | iny | dex | dey | clc | sec | cld | sed | cli | sei | clv =>
    exact .inl ((implied_does _).exec_regs (fun _ => rfl) ht)
  | nop => exact .inl ((implied_does id).exec_regs (fun _ => rfl) ht)
  | aslAcc | lsrAcc | rolAcc | rorAcc =>
    exact .inr ⟨by simp, _, _, ⟨s.regs.a, rfl⟩, (accumulator_does _).exec_regs (fun _ => rfl) ht⟩
  | bplRel b1 | bmiRel b1 | bvcRel b1 | bvsRel b1 | bccRel b1 | bcsRel b1 | bneRel b1 | beqRel b1 =>
    exact .inl ((branch_does _ b1).exec_regs (fun _ => rfl) ht)
  | jmpAbs b1 b2 => exact .inl ⟨_, (jmpAbs_does b1 b2).exec_regs (fun _ => rfl) ht⟩
  | jmpInd b1 b2 => exact .inl ((jmpInd_does b1 b2).exec_regs (fun _ => rfl) ht)
  | jsrAbs b1 b2 => exact .inl ((jsrAbs_does b1).exec_regs (fun _ => rfl) ht)
  | rts => exact .inl (rts_does.exec_regs (fun _ => rfl) ht)
  | brk => exact .inl (brk_does.exec_regs (fun _ => rfl) ht)
  | rti => exact .inl (rti_does.exec_regs (fun _ => rfl) ht)
  | pha | php => exact .inl ((pushInstr_does _).exec_regs (fun _ => rfl) ht)
  | pla => exact .inl ((pullInstr_does fun v g => { g.nz v with a := v }).exec_regs (fun _ => rfl) ht)
  | plp => exact .inl ((pullInstr_does fun v g => g.loadP v).exec_regs (fun _ => rfl) ht)

/-- Settles O50: the frame of the operation; in accumulator mode A is the one register more. -/
theorem registerWriters : Obligations.RegisterWriters := by
  unfold Obligations.RegisterWriters
  intro i s t ht
  rcases exec_effect ht with h | ⟨hacc, g, a, h, hregs⟩
  · obtain ⟨ha, hx, hy, hs, hpc⟩ := h.keeps.1
    exact ⟨fun hn _ => ha hn, hx, hy, hs, hpc⟩
  · obtain ⟨-, hx, hy, hs, hpc⟩ := h.keeps.1
    rw [hregs]
    exact ⟨fun _ hn => absurd hacc hn, hx, hy, hs, hpc⟩

/-- Settles O51: the frame of the operation; the accumulator is no flag. -/
theorem flagWriters : Obligations.FlagWriters := by
  unfold Obligations.FlagWriters
  intro i s t ht
  rcases exec_effect ht with h | ⟨-, g, a, h, hregs⟩
  · exact h.keeps.2
  · rw [hregs]
    exact h.keeps.2

end Sys2Proof.Machine
end

section
/-! PROOFS. Which bytes of memory the storing instructions leave alone (41_addressing_pipeline.md R450, R451;
20_memory.md R204, R210, R211). -/

namespace Sys2Proof.Machine

/-! ### A part of a sequence that writes at one address -/

/-- Where a part of a sequence completes, it changes no byte of memory but the one reached through `e`. -/
def WritesOnlyAt {α : Type} (e : Word) (m : M α) : Prop :=
  ∀ r v r', m r = .ok v r' → r.m.bus.SameMap r'.m.bus ∧
    ∀ a, r.m.bus.sameCell a e = false → r'.m.bus.peek a = r.m.bus.peek a

/-- One part after another. -/
theorem WritesOnlyAt.bind {α β : Type} {e : Word} {m : M α} {f : α → M β} (h : WritesOnlyAt e m)
    (k : ∀ v, WritesOnlyAt e (f v)) : WritesOnlyAt e (m >>= f) := by
  intro r u r'' hr
  cases hm : m r with
  | error why r' => rw [M.bind_error hm] at hr; cases hr
  | ok v r' =>
    rw [M.bind_ok hm] at hr
    obtain ⟨hmap, hpeek⟩ := h r v r' hm
    obtain ⟨hmap', hpeek'⟩ := k v r' u r'' hr
    exact ⟨hmap.trans hmap', fun a ha => (hpeek' a (by rw [hmap.sameCell, ha])).trans (hpeek a ha)⟩

/-- A part that makes no write. -/
theorem Does.writesOnlyAt {α : Type} {lo hi : Nat} {R : Regs → Regs → Prop} {m : M α} (h : Does false lo hi R m)
    (e : Word) : WritesOnlyAt e m := by
  intro r v r' hr
  rcases h r with ⟨u, cs, b, g, l, k⟩ | ⟨a, acc, cs, b, g, l, k⟩
  · have hrun := k.run
    rw [hr] at hrun
    cases hrun
    exact ⟨Bus.replay_sameMap k.replay, fun a _ => Bus.replay_peek k.replay fun c hc hw =>
      absurd (k.writes c hc hw) Bool.false_ne_true⟩
  · have hrun := k.run
    rw [hr] at hrun
    cases hrun

theorem writeCycle_writesOnlyAt (e : Word) (v : Byte) : WritesOnlyAt e (writeCycle e v) := by
  intro r u r' hr
  rw [← Run.went_nil r] at hr
  cases hw : r.m.bus.write e v with
  | none => rw [writeCycle_fault r [] r.m.regs r.q.latch hw] at hr; cases hr
  | some b =>
    rw [writeCycle_went r [] r.m.regs r.q.latch hw] at hr
    cases hr
    exact ⟨(Bus.write_sameMap hw).trans (Bus.tick_sameMap b), fun a ha =>
      (Bus.tick_peek b a).trans (Bus.write_peek_other hw ha)⟩

/-! ### Classes W and M -/

/-- An instruction's meaning is the reads of an addressing mode, then writes at the effective address only. -/
def StoresAt (i : Instr) (ea : M Word) : Prop :=
  ∃ rest : Word → M Unit, (∀ s, exec i s = runSeq (ea >>= rest) s) ∧ (∀ e, WritesOnlyAt e (rest e)) ∧
    ∃ lo hi, Does false lo hi (fun g g' => g' = g) ea

theorem StoresAt.of_writeOperand {i : Instr} {ea : M Word} {lo hi : Nat} (reg : Regs → Byte)
    (hea : Does false lo hi (fun g g' => g' = g) ea) (hexec : ∀ s, exec i s = runSeq (writeOperand ea reg) s) :
    StoresAt i ea :=
  ⟨_, hexec, fun e => (getRegs_does.writesOnlyAt e).bind fun g => writeCycle_writesOnlyAt e (reg g), lo, hi, hea⟩

theorem StoresAt.of_modifyOperand {i : Instr} {ea : M Word} {lo hi : Nat} (op : Byte → Regs → Byte × Regs)
    (hea : Does false lo hi (fun g g' => g' = g) ea) (hexec : ∀ s, exec i s = runSeq (modifyOperand ea op) s) :
    StoresAt i ea :=
  ⟨_, hexec, fun e => ((readCycle_does e).writesOnlyAt e).bind fun v =>
    ((setLatches_does fun l => { l with dl := v }).writesOnlyAt e).bind fun _ => (getLatches_does.writesOnlyAt e).bind
      fun l => (writeCycle_writesOnlyAt e l.dl).bind fun _ => (getRegs_does.writesOnlyAt e).bind fun g =>
        (writeCycle_writesOnlyAt e (op l.dl g).1).bind fun _ =>
          (setRegs_does fun g => (op l.dl g).2).writesOnlyAt e, lo, hi, hea⟩

/-- The one byte that such an instruction can change is the one at the address its mode computes. -/
theorem StoresAt.keeps {i : Instr} {ea : M Word} (h : StoresAt i ea) {s t : State} (ht : exec i s = .next t) :
    ∃ (e : Word) (r : Run), ea s.enter = .ok e r ∧ ∀ a, s.bus.sameCell a e = false → t.bus.peek a = s.bus.peek a := by
  obtain ⟨rest, hexec, hrest, lo, hi, hea⟩ := h
  rw [hexec, runSeq, runFrom] at ht
  cases he : ea s.enter with
  | error why r => rw [M.bind_error he] at ht; cases ht
  | ok e r =>
    rw [M.bind_ok he] at ht
    obtain ⟨hmap, hpeek⟩ := hea.writesOnlyAt e s.enter e r he
    rw [State.enter_bus] at hmap hpeek
    cases hr : rest e r with
    | error why r' => rw [hr] at ht; cases ht
    | ok u r' =>
      rw [hr] at ht
      cases ht
      obtain ⟨-, hpeek'⟩ := hrest e r u r' hr
      exact ⟨e, r, rfl, fun a ha => (hpeek' a (by rw [hmap.sameCell, ha])).trans (hpeek a ha)⟩

/-- Settles O53: each form is a store or a read-modify-write at the address of its mode. -/
theorem storesKeepOtherMemory : Obligations.StoresKeepOtherMemory := by
  unfold Obligations.StoresKeepOtherMemory
  intro b1 b2 i ea hmem s t ht
  refine StoresAt.keeps ?_ ht
  refine (?_ : ∀ p ∈ _, StoresAt p.1 p.2) (i, ea) hmem
  simp only [List.forall_mem_cons]
  exact ⟨StoresAt.of_writeOperand Regs.a (eaZp_does b1) fun _ => rfl,
    StoresAt.of_writeOperand Regs.x (eaZp_does b1) fun _ => rfl,
    StoresAt.of_writeOperand Regs.y (eaZp_does b1) fun _ => rfl,
    StoresAt.of_writeOperand Regs.a (eaZpx_does b1) fun _ => rfl,
    StoresAt.of_writeOperand Regs.y (eaZpx_does b1) fun _ => rfl,
    StoresAt.of_writeOperand Regs.x (eaZpy_does b1) fun _ => rfl,
    StoresAt.of_writeOperand Regs.a (eaAbs_does b1 b2) fun _ => rfl,
    StoresAt.of_writeOperand Regs.x (eaAbs_does b1 b2) fun _ => rfl,
    StoresAt.of_writeOperand Regs.y (eaAbs_does b1 b2) fun _ => rfl,
    StoresAt.of_writeOperand Regs.a (eaAbsx_does .always b1 b2) fun _ => rfl,
    StoresAt.of_writeOperand Regs.a (eaAbsy_does .always b1 b2) fun _ => rfl,
    StoresAt.of_writeOperand Regs.a (eaIzx_does b1) fun _ => rfl,
    StoresAt.of_writeOperand Regs.a (eaIzy_does .always b1) fun _ => rfl,
    StoresAt.of_modifyOperand incByte (eaZp_does b1) fun _ => rfl,
    StoresAt.of_modifyOperand decByte (eaZp_does b1) fun _ => rfl,
    StoresAt.of_modifyOperand aslByte (eaZp_does b1) fun _ => rfl,
    StoresAt.of_modifyOperand lsrByte (eaZp_does b1) fun _ => rfl,
    StoresAt.of_modifyOperand rolByte (eaZp_does b1) fun _ => rfl,
    StoresAt.of_modifyOperand rorByte (eaZp_does b1) fun _ => rfl,
    StoresAt.of_modifyOperand incByte (eaZpx_does b1) fun _ => rfl,
    StoresAt.of_modifyOperand decByte (eaZpx_does b1) fun _ => rfl,
    StoresAt.of_modifyOperand aslByte (eaZpx_does b1) fun _ => rfl,
    StoresAt.of_modifyOperand lsrByte (eaZpx_does b1) fun _ => rfl,
    StoresAt.of_modifyOperand rolByte (eaZpx_does b1) fun _ => rfl,
    StoresAt.of_modifyOperand rorByte (eaZpx_does b1) fun _ => rfl,
    StoresAt.of_modifyOperand incByte (eaAbs_does b1 b2) fun _ => rfl,
    StoresAt.of_modifyOperand decByte (eaAbs_does b1 b2) fun _ => rfl,
    StoresAt.of_modifyOperand aslByte (eaAbs_does b1 b2) fun _ => rfl,
    StoresAt.of_modifyOperand lsrByte (eaAbs_does b1 b2) fun _ => rfl,
    StoresAt.of_modifyOperand rolByte (eaAbs_does b1 b2) fun _ => rfl,
    StoresAt.of_modifyOperand rorByte (eaAbs_does b1 b2) fun _ => rfl,
    StoresAt.of_modifyOperand incByte (eaAbsx_does .always b1 b2) fun _ => rfl,
    StoresAt.of_modifyOperand decByte (eaAbsx_does .always b1 b2) fun _ => rfl,
    StoresAt.of_modifyOperand aslByte (eaAbsx_does .always b1 b2) fun _ => rfl,
    StoresAt.of_modifyOperand lsrByte (eaAbsx_does .always b1 b2) fun _ => rfl,
    StoresAt.of_modifyOperand rolByte (eaAbsx_does .always b1 b2) fun _ => rfl,
    StoresAt.of_modifyOperand rorByte (eaAbsx_does .always b1 b2) fun _ => rfl,
    List.forall_mem_nil _⟩

/-! ### Pushes -/

/-- The writes among the cycles of a list of accesses are those the list has. -/
theorem mem_fillReads_write {accesses : List (Option Byte × Word)} {f : Nat → Byte} {c : BusCycle}
    (hc : c ∈ fillReads accesses f) (hw : c.access = .write) : ∃ v, (some v, c.address) ∈ accesses := by
  induction accesses generalizing f with
  | nil => cases hc
  | cons p rest ih =>
    obtain ⟨o, a⟩ := p
    cases o with
    | none =>
      rcases List.mem_cons.mp hc with rfl | hc
      · cases hw
      · obtain ⟨v, hv⟩ := ih hc
        exact ⟨v, .tail _ hv⟩
    | some v =>
      rcases List.mem_cons.mp hc with rfl | hc
      · exact ⟨v, .head _⟩
      · obtain ⟨u, hu⟩ := ih hc
        exact ⟨u, .tail _ hu⟩

/-- A replay of such accesses leaves every byte of memory but those at the addresses it writes. -/
theorem replay_fillReads_peek {b b' : Bus} {accesses : List (Option Byte × Word)} {f : Nat → Byte}
    (h : b.replay (fillReads accesses f) = some b') {a : Word}
    (ha : ∀ p ∈ accesses, p.1 ≠ none → b.sameCell a p.2 = false) : b'.peek a = b.peek a :=
  Bus.replay_peek h fun c hc hw => by
    obtain ⟨v, hv⟩ := mem_fillReads_write hc hw
    exact ha _ hv (Option.some_ne_none v)

/-- A sequence that answered a next state made its accesses, and so changed no byte but those it wrote. -/
theorem runSeq_next_peek {m : M Unit} {s t : State} (accesses : List (Option Byte × Word)) {g : (Nat → Byte) → Regs}
    {l : (Nat → Byte) → Latches} (ht : runSeq m s = .next t)
    (h : ∀ f, Tracks m s.regs s.enter.q.latch (fillReads accesses f) () (g f) (l f)) {a : Word}
    (ha : ∀ p ∈ accesses, p.1 ≠ none → s.bus.sameCell a p.2 = false) : t.bus.peek a = s.bus.peek a := by
  obtain ⟨f, b, hb, rfl⟩ := fillReads_of_next (leaves := fun f b => s.after (fillReads accesses f) b (g f))
    (fun f => runSeq_tracks (h f)) ht
  exact replay_fillReads_peek hb ha

/-- A push instruction writes at the stack address and nowhere else. -/
theorem pushInstr_next_peek {byte : Regs → Byte} {s t : State} (ht : runSeq (pushInstr byte) s = .next t) {a : Word}
    (ha : s.bus.sameCell a (stackAddress s.regs.s) = false) : t.bus.peek a = s.bus.peek a :=
  runSeq_next_peek [(none, s.regs.pc), (some (byte s.regs), stackAddress s.regs.s)] ht
    (fun f => pushInstr_tracks byte (f 0) s.regs s.enter.q.latch) (by simp [ha])

/-- JSR writes at two stack addresses. -/
theorem jsrAbs_next_peek {b1 b2 : Byte} {s t : State} (ht : exec (.jsrAbs b1 b2) s = .next t) {a : Word}
    (h₀ : s.bus.sameCell a (stackAddress s.regs.s) = false)
    (h₁ : s.bus.sameCell a (stackAddress (s.regs.s - 1)) = false) : t.bus.peek a = s.bus.peek a :=
  runSeq_next_peek [(none, stackAddress s.regs.s), (some (hi8 s.regs.pc), stackAddress s.regs.s),
      (some (lo8 s.regs.pc), stackAddress (s.regs.s - 1)), (none, s.regs.pc)] ht
    (fun f => jsrAbs_tracks b1 (f 0) (f 3) s.regs s.enter.q.latch) (by
    simp only [List.forall_mem_cons, h₀, h₁]
    simp)

/-- BRK writes at three stack addresses. -/
theorem brk_next_peek {s t : State} (ht : exec .brk s = .next t) {a : Word}
    (h₀ : s.bus.sameCell a (stackAddress s.regs.s) = false)
    (h₁ : s.bus.sameCell a (stackAddress (s.regs.s - 1)) = false)
    (h₂ : s.bus.sameCell a (stackAddress (s.regs.s - 2)) = false) : t.bus.peek a = s.bus.peek a :=
  runSeq_next_peek [(none, s.regs.pc), (some (hi8 (s.regs.pc + 1)), stackAddress s.regs.s),
      (some (lo8 (s.regs.pc + 1)), stackAddress (s.regs.s - 1)),
      (some (s.regs.pByte true), stackAddress (s.regs.s - 1 - 1)), (none, irqVector), (none, irqVector + 1)] ht
    (fun f => brk_tracks (f 0) (f 4) (f 5) s.regs s.enter.q.latch) (by
    simp only [List.forall_mem_cons, sub_one_sub_one, h₀, h₁, h₂]
    simp)

/-- So does an interrupt service. -/
theorem service_next_peek {s t : State} {k : ServiceKind} (hs : s.seq = .boundary) (hk : s.pendingService = some k)
    (ht : step s = .next t) {a : Word}
    (h₀ : s.bus.sameCell a (stackAddress s.regs.s) = false)
    (h₁ : s.bus.sameCell a (stackAddress (s.regs.s - 1)) = false)
    (h₂ : s.bus.sameCell a (stackAddress (s.regs.s - 2)) = false) : t.bus.peek a = s.bus.peek a := by
  have hstep := step_service (active_of_step_next ht) hk
  obtain ⟨f, b, hb, rfl⟩ := fillReads_of_next (run := step)
    (accesses := [(none, s.regs.pc), (none, s.regs.pc), (some (hi8 s.regs.pc), stackAddress s.regs.s),
      (some (lo8 s.regs.pc), stackAddress (s.regs.s - 1)),
      (some (s.regs.pByte false), stackAddress (s.regs.s - 1 - 1)), (none, k.vector), (none, k.vector + 1)])
    (fun f => step_tracks_of_sampled hstep hs (List.cons_ne_nil _ _)
      (serviceSequence_tracks k (f 0) (f 1) (f 5) (f 6) s.regs .fresh)) ht
  exact replay_fillReads_peek hb (by
    simp only [List.forall_mem_cons, sub_one_sub_one, h₀, h₁, h₂]
    simp)

/-- Settles O54: each writes at the stack addresses it pushes to. -/
theorem pushesKeepOtherMemory : Obligations.PushesKeepOtherMemory := by
  unfold Obligations.PushesKeepOtherMemory
  refine ⟨?instructions, ?service⟩
  case instructions =>
    intro i n s t hi ht a ha
    have h₀ (hn : 0 < n) : s.bus.sameCell a (stackAddress s.regs.s) = false := by simpa using ha 0 hn
    have h₁ (hn : 1 < n) : s.bus.sameCell a (stackAddress (s.regs.s - 1)) = false := ha 1 hn
    have h₂ (hn : 2 < n) : s.bus.sameCell a (stackAddress (s.regs.s - 2)) = false := ha 2 hn
    obtain ⟨rfl, rfl⟩ | ⟨rfl, rfl⟩ | ⟨⟨b1, b2, rfl⟩, rfl⟩ | ⟨rfl, rfl⟩ := hi
    · exact pushInstr_next_peek (byte := Regs.a) ht (h₀ (by decide))
    · exact pushInstr_next_peek (byte := fun g => g.pByte true) ht (h₀ (by decide))
    · exact jsrAbs_next_peek ht (h₀ (by decide)) (h₁ (by decide))
    · exact brk_next_peek ht (h₀ (by decide)) (h₁ (by decide)) (h₂ (by decide))
  case service =>
    intro s t k hs hk ht a ha
    have h₀ : s.bus.sameCell a (stackAddress s.regs.s) = false := by simpa using ha 0 (by decide)
    exact service_next_peek hs hk ht h₀ (ha 1 (by decide)) (ha 2 (by decide))

end Sys2Proof.Machine
end

section
/-! PROOFS. Byte arrays in canonical form (20_memory.md R208; log 2): what reads the same is the same data. -/

namespace Sys2Proof.Machine

/-- The first cell of a canonical memory, and the cells after it. -/
theorem Memory.wfFrom_cons_iff {size first k : Nat} {v : Byte} {rest : Memory} :
    Memory.wfFrom size first ((k, v) :: rest) = true ↔
      first ≤ k ∧ k < size ∧ v ≠ Memory.unlisted ∧ Memory.wfFrom size (k + 1) rest = true := by
  simp only [Memory.wfFrom, Bool.and_eq_true, decide_eq_true_eq, and_assoc]

theorem Memory.read_head (k : Nat) (v : Byte) (rest : Memory) : Memory.read ((k, v) :: rest) k = v :=
  if_pos rfl

theorem Memory.read_tail {k l : Nat} (v : Byte) (rest : Memory) (h : k ≠ l) :
    Memory.read ((k, v) :: rest) l = Memory.read rest l :=
  if_neg h

/-- A memory that reads as a canonical one does lists no address before the first of that. -/
theorem Memory.head_le_of_read_eq {size first first' k k' : Nat} {v v' : Byte} {rest rest' : Memory}
    (hm : Memory.wfFrom size first ((k, v) :: rest) = true) (hm' : Memory.wfFrom size first' ((k', v') :: rest') = true)
    (h : ∀ l < size, Memory.read ((k, v) :: rest) l = Memory.read ((k', v') :: rest') l) : k' ≤ k := by
  obtain ⟨-, hk, hv, -⟩ := Memory.wfFrom_cons_iff.mp hm
  obtain ⟨-, hk', hv', hrest'⟩ := Memory.wfFrom_cons_iff.mp hm'
  by_contra hlt
  have hbelow := Memory.read_below (Memory.wfFrom_cons_iff.mpr ⟨le_rfl, hk', hv', hrest'⟩) (Nat.lt_of_not_le hlt)
  exact hv (by rw [← hbelow, ← h k hk, Memory.read_head])

/-- Canonical memories that read the same are the same, cell by cell. -/
theorem Memory.eq_of_read_eq {size first : Nat} {m m' : Memory} (hm : Memory.wfFrom size first m = true)
    (hm' : Memory.wfFrom size first m' = true) (h : ∀ l < size, Memory.read m l = Memory.read m' l) : m = m' := by
  induction m generalizing first m' with
  | nil =>
    cases m' with
    | nil => rfl
    | cons c' rest' =>
      obtain ⟨k', v'⟩ := c'
      obtain ⟨-, hk', hv', -⟩ := Memory.wfFrom_cons_iff.mp hm'
      exact absurd ((Memory.read_head k' v' rest').symm.trans (h k' hk').symm) hv'
  | cons c rest ih =>
    obtain ⟨k, v⟩ := c
    obtain ⟨-, hk, hv, hrest⟩ := Memory.wfFrom_cons_iff.mp hm
    cases m' with
    | nil => exact absurd ((Memory.read_head k v rest).symm.trans (h k hk)) hv
    | cons c' rest' =>
      obtain ⟨k', v'⟩ := c'
      obtain ⟨-, -, -, hrest'⟩ := Memory.wfFrom_cons_iff.mp hm'
      obtain rfl : k = k' := Nat.le_antisymm
        (Memory.head_le_of_read_eq hm' hm fun l hl => (h l hl).symm) (Memory.head_le_of_read_eq hm hm' h)
      obtain rfl : v = v' := by
        have hread := h k hk
        rwa [Memory.read_head, Memory.read_head] at hread
      rw [ih hrest hrest' fun l hl => ?_]
      rcases Nat.lt_or_ge k l with hlt | hge
      · have hread := h l hl
        rwa [Memory.read_tail v rest hlt.ne, Memory.read_tail v rest' hlt.ne] at hread
      · rw [Memory.read_below hrest (Nat.lt_succ_of_le hge), Memory.read_below hrest' (Nat.lt_succ_of_le hge)]

/-- Settles O55, by `Memory.eq_of_read_eq`. -/
theorem memoryCanonicalUnique : Obligations.MemoryCanonicalUnique := by
  unfold Obligations.MemoryCanonicalUnique
  intro size m m' hm hm' h
  exact Memory.eq_of_read_eq hm hm' h

end Sys2Proof.Machine
end

section
/-! PROOFS. The interrupt lines and the boundary sample (10_state.md R131; 60_exceptions.md R811 to R816). -/

namespace Sys2Proof.Machine

theorem Line.asserted_iff (l : Line) : l.asserted = true ↔ l.host = true ∨ l.devices ≠ [] := by
  simp [Line.asserted]

/-- R813: an NMI edge is served. -/
theorem pendingService_of_edge {s : State} (hline : s.bus.lines.nmi.asserted = true) (hprev : s.nmiPrev = false) :
    s.pendingService = some .nmi := by
  simp [State.pendingService, State.nmiEdge, hline, hprev]

/-- R813: without an NMI edge, an IRQ that I does not mask is served. -/
theorem pendingService_of_no_edge {s : State} (h : s.bus.lines.nmi.asserted = false ∨ s.nmiPrev = true) :
    s.pendingService = if s.irqPending then some .irq else none := by
  have hedge : s.nmiEdge = false := by rcases h with h | h <;> simp [State.nmiEdge, h]
  simp [State.pendingService, hedge]

/-- Settles O7: the lines by their sources, the sample with an edge and without one. -/
theorem boundarySampleDecides : Obligations.BoundarySampleDecides := by
  unfold Obligations.BoundarySampleDecides
  refine ⟨Line.asserted_iff, Line.drive_sources, fun s level => ⟨rfl, rfl⟩, ?sample⟩
  case sample =>
    intro s
    refine ⟨pendingService_of_edge, fun hedge => ⟨fun hirq hi => ?_, fun hirq => ?_⟩⟩
    · rw [pendingService_of_no_edge hedge, State.irqPending, hirq, hi]
      rfl
    · rw [pendingService_of_no_edge hedge]
      rcases hirq with hirq | hi
      · simp [State.irqPending, hirq]
      · simp [State.irqPending, hi]

end Sys2Proof.Machine
end

section
/-! PROOFS. Runs (40_cycle_engine.md R425): the budget is looked at before each step, and a step takes at most seven
cycles. -/

namespace Sys2Proof.Machine

/-- What `run_until` answers, with the predicate at the state it leaves and the cycles used against its budget. -/
def RunResult.WithinBudget (pred : View → Bool) (budget : Nat) (result : RunResult) : Prop :=
  match result with
  | .satisfied used t => used ≤ budget + 6 ∧ pred t.view = true
  | .budgetExhausted used t => budget ≤ used ∧ used ≤ budget + 6 ∧ pred t.view = false
  | .stopped _ _ => True

/-- The loop of `run_until`, while its fuel covers what is left of the budget. -/
theorem runLoop_withinBudget (pred : View → Bool) {budget fuel used : Nat} {s : State} (hs : s.seq = .boundary)
    (hfuel : budget ≤ fuel + used) (hused : used ≤ budget + 6) :
    (runLoop pred budget (fuel + 1) used s).WithinBudget pred budget := by
  induction fuel generalizing used s with
  | zero =>
    unfold runLoop
    split
    next hpred => exact ⟨hused, hpred⟩
    next hpred =>
      rw [if_pos (by omega)]
      exact ⟨by omega, hused, by simpa using hpred⟩
  | succ fuel ih =>
    unfold runLoop
    split
    next hpred => exact ⟨hused, hpred⟩
    next hpred =>
      split
      next hout => exact ⟨hout, hused, by simpa using hpred⟩
      next hin =>
        split
        next t ht =>
          obtain ⟨-, hleast, hmost, -, hboundary, -⟩ := step_next_counts hs ht
          exact ih hboundary (by omega) (by omega)
        next f hf => exact trivial
        next why hwhy => exact absurd hwhy (stepNeverRefuses s why)

/-- Settles O59: the fuel of `run_until` covers its budget. -/
theorem runUntilOvershoot : Obligations.RunUntilOvershoot := by
  unfold Obligations.RunUntilOvershoot
  intro pred budget used s t hs
  have hrun : (runUntil pred budget s).WithinBudget pred budget :=
    runLoop_withinBudget pred hs (Nat.le_add_right _ _) (Nat.zero_le _)
  constructor <;> intro hresult <;> rw [hresult] at hrun <;> exact hrun

end Sys2Proof.Machine
end

section
/-! PROOFS. The Address Map, one access at a time (20_memory.md R205), and the clock (40_cycle_engine.md R400, R401). -/

namespace Sys2Proof.Machine

/-! ### The access of a resolved address -/

theorem Bus.read_of_resolve {b : Bus} {a : Word} {n l : Nat} {d : Device} (hr : b.resolve a = some (n, l))
    (hd : b.devices[n]? = some d) :
    b.read a = some (d.readValue l, b.putDevice n (d.afterRead n l b.lines)) := by
  simp only [Bus.read, hr, hd, Bus.putDevice]

theorem Bus.write_of_resolve {b : Bus} {a : Word} {n l : Nat} {d : Device} (v : Byte) (hr : b.resolve a = some (n, l))
    (hd : b.devices[n]? = some d) : b.write a v = some (b.putDevice n (d.afterWrite n l v b.lines)) := by
  simp only [Bus.write, hr, hd, Bus.putDevice]

theorem Bus.mapped_of_hole {b : Bus} {a : Word} (h : b.resolve a = none) : b.mapped a = false := by
  rw [Bus.mapped, h]
  rfl

/-! ### The ticks -/

/-- R400: one device more in the tick list ticks after the others. -/
theorem Bus.tick_snoc (b : Bus) (earlier : List Device) (d : Device) :
    let before := ({ b with devices := earlier } : Bus).tick
    let ticked := d.afterTick earlier.length before.lines
    ({ b with devices := earlier ++ [d] } : Bus).tick =
      { b with devices := before.devices ++ [ticked.1], lines := ticked.2 } := by
  simp only [Bus.tick, tickFrom_snoc, Nat.zero_add]

/-! ### One clock cycle of a run -/

theorem readCycle_ok {r : Run} {a : Word} {v : Byte} {b : Bus} (h : r.m.bus.read a = some (v, b)) :
    readCycle a r = .ok v (r.went [rd a v] b.tick r.m.regs r.q.latch) := by
  have hcycle := readCycle_went r [] r.m.regs r.q.latch h
  rwa [Run.went_nil] at hcycle

theorem writeCycle_ok {r : Run} {a : Word} {v : Byte} {b : Bus} (h : r.m.bus.write a v = some b) :
    writeCycle a v r = .ok () (r.went [wr a v] b.tick r.m.regs r.q.latch) := by
  have hcycle := writeCycle_went r [] r.m.regs r.q.latch h
  rwa [Run.went_nil] at hcycle

theorem readCycle_unmapped {r : Run} {a : Word} (h : r.m.bus.mapped a = false) :
    readCycle a r = .error (.unmappedAccess a .read) r.clock := by
  have hcycle := readCycle_fault r [] r.m.regs r.q.latch ((Bus.read_none_iff _ _).mpr h)
  rwa [Run.went_nil] at hcycle

theorem writeCycle_unmapped {r : Run} {a : Word} (v : Byte) (h : r.m.bus.mapped a = false) :
    writeCycle a v r = .error (.unmappedAccess a .write) r.clock := by
  have hcycle := writeCycle_fault r [] r.m.regs r.q.latch ((Bus.write_none_iff _ _ v).mpr h)
  rwa [Run.went_nil] at hcycle

/-- Settles O60: resolution on a well-formed bus, the ticks in order, and the cycle of a run. -/
theorem addressMapAndTicks : Obligations.AddressMapAndTicks := by
  unfold Obligations.AddressMapAndTicks
  refine ⟨?resolution, fun b earlier d => ⟨rfl, Bus.tick_snoc b earlier d⟩, ?cycle⟩
  case resolution =>
    intro b hb inside
    constructor
    · intro e he a ha
      obtain ⟨d, hd, hr⟩ := Bus.resolve_of_mem hb he ((Range.contains_iff _ _).mpr ha)
      exact ⟨d, hd, Bus.resolve_local hb hr hd, hr, Bus.read_of_resolve hr hd, fun v => Bus.write_of_resolve v hr hd⟩
    · intro a ha
      have hr : b.resolve a = none := Bus.resolve_hole fun e he => by
        rw [← Bool.not_eq_true, Range.contains_iff]
        exact ha e he
      have hm := Bus.mapped_of_hole hr
      exact ⟨hr, hm, (Bus.read_none_iff _ _).mpr hm, fun v => (Bus.write_none_iff _ _ v).mpr hm⟩
  case cycle =>
    intro r a v phase
    have hphase : r.m.phase.ticked = phase := by
      simp only [phase]
      cases r.m.phase <;> rfl
    rw [← hphase]
    refine ⟨fun b h => ⟨_, readCycle_ok h, rfl, rfl, rfl, rfl, rfl⟩,
      fun b h => ⟨_, writeCycle_ok h, rfl, rfl, rfl, rfl, rfl⟩, fun h => ⟨?_, ?_⟩⟩
    · exact ⟨_, readCycle_unmapped h, rfl, rfl, rfl⟩
    · exact ⟨_, writeCycle_unmapped v h, rfl, rfl, rfl⟩

end Sys2Proof.Machine
end

section
/-! PROOFS. The host's operations (40_cycle_engine.md R430; 20_memory.md R203, R204, R207 to R209;
70_reset_and_hazards.md section 1). -/

namespace Sys2Proof.Machine

/-! ### Host reads and writes -/

section Active

variable {s : State} {a : Word}

theorem hostRead_next {v : Byte} {b : Bus} (ha : ∀ r, s.phase ≠ .halted r) (h : s.bus.read a = some (v, b)) :
    hostRead s a = .next (v, { s with bus := b }) := by
  unfold hostRead
  split
  · exact absurd ‹_› (ha _)
  · rw [h]

theorem hostRead_unmapped (ha : ∀ r, s.phase ≠ .halted r) (h : s.bus.mapped a = false) :
    hostRead s a = .fault (.unmappedAccess a .read s) := by
  unfold hostRead
  split
  · exact absurd ‹_› (ha _)
  · rw [(Bus.read_none_iff _ _).mpr h]

theorem hostWrite_next {v : Byte} {b : Bus} (ha : ∀ r, s.phase ≠ .halted r) (h : s.bus.write a v = some b) :
    hostWrite s a v = .next { s with bus := b } := by
  unfold hostWrite
  split
  · exact absurd ‹_› (ha _)
  · rw [h]

theorem hostWrite_unmapped (v : Byte) (ha : ∀ r, s.phase ≠ .halted r) (h : s.bus.mapped a = false) :
    hostWrite s a v = .fault (.unmappedAccess a .write s) := by
  unfold hostWrite
  split
  · exact absurd ‹_› (ha _)
  · rw [(Bus.write_none_iff _ _ v).mpr h]

theorem loadRegs_active (g : Regs) (ha : ∀ r, s.phase ≠ .halted r) :
    loadRegs s g = .next { s with regs := g, seq := .boundary } := by
  unfold loadRegs
  split
  · exact absurd ‹_› (ha _)
  · rfl

end Active

/-- The same device put back at its place, with the lines as they are, is the same bus. -/
theorem Bus.putDevice_self {b : Bus} {n : Nat} {d : Device} (hd : b.devices[n]? = some d) :
    b.putDevice n (d, b.lines) = b := by
  obtain ⟨hlt, rfl⟩ := List.getElem?_eq_some_iff.mp hd
  rw [Bus.putDevice, List.set_getElem_self]

/-- R204: two addresses of one cell resolve alike. -/
theorem Bus.resolve_of_sameCell {b : Bus} {a e : Word} (h : b.sameCell a e = true) : b.resolve a = b.resolve e := by
  rw [Bus.sameCell, Bool.and_eq_true, decide_eq_true_eq] at h
  exact h.2

/-- R208: what is written into a RAM is read there. -/
theorem Bus.read_write_ram {b b' : Bus} {a a' : Word} {v : Byte} {n l size : Nat} {cells : Memory} (hb : b.wf = true)
    (hr : b.resolve a = some (n, l)) (hd : b.devices[n]? = some (.ram size cells)) (hw : b.write a v = some b')
    (ha' : b.sameCell a' a = true) : ∃ b'', b'.read a' = some (v, b'') := by
  have hcells : Memory.wf size cells = true := by
    have hwf := Bus.wf_device hb (List.mem_of_getElem? hd)
    simp only [Device.wf, Bool.and_eq_true] at hwf
    exact hwf.2
  have hr' : b'.resolve a' = some (n, l) := by
    rw [(Bus.write_sameMap hw).resolve, Bus.resolve_of_sameCell ha', hr]
  have hd' : b'.devices[n]? = some (.ram size (Memory.write cells l v)) := by
    rw [Bus.write_of_resolve v hr hd, Option.some.injEq] at hw
    obtain ⟨hlt, -⟩ := List.getElem?_eq_some_iff.mp hd
    rw [← hw]
    exact List.getElem?_set_self hlt
  have hv : Device.readValue (.ram size (Memory.write cells l v)) l = v := Memory.read_write_same v hcells
  exact ⟨_, by rw [Bus.read_of_resolve hr' hd', hv]⟩

/-- R111: `P_byte(1)` as a number. -/
theorem Regs.pByte_true_toNat (g : Regs) :
    (g.pByte true).toNat = 128 * g.n.toNat + 64 * g.v.toNat + 0x30 + 8 * g.d.toNat + 4 * g.i.toNat +
      2 * g.z.toNat + g.c.toNat := by
  have hn := Bool.toNat_le g.n
  have hv := Bool.toNat_le g.v
  have hd := Bool.toNat_le g.d
  have hi := Bool.toNat_le g.i
  have hz := Bool.toNat_le g.z
  have hc := Bool.toNat_le g.c
  simp only [Regs.pByte, bit, Bool.toNat_true, BitVec.toNat_ofNat]
  omega

/-- Settles O56: the device at the address decides what a host write does; a load and the view are their definitions. -/
theorem hostWriteThenRead : Obligations.HostWriteThenRead := by
  unfold Obligations.HostWriteThenRead
  refine ⟨?access, fun s g ha => loadRegs_active g ha, fun s => ⟨rfl, rfl, rfl, s.regs.pByte_true_toNat⟩⟩
  case access =>
    intro s a v hb ha
    refine ⟨?ram, ?rom, ?hole⟩
    case ram =>
      intro n l size cells hr hd
      have hw := Bus.write_of_resolve v hr hd
      refine ⟨_, hostWrite_next ha hw, rfl, rfl, fun a' ha' => ?_⟩
      obtain ⟨b, hread⟩ := Bus.read_write_ram hb hr hd hw ha'
      exact ⟨_, hostRead_next ha hread⟩
    case rom =>
      intro n l size image hr hd
      rw [hostWrite_next ha (Bus.write_of_resolve v hr hd)]
      simp only [Device.afterWrite, Bus.putDevice_self hd]
    case hole =>
      intro hr
      have hm := Bus.mapped_of_hole hr
      exact ⟨hostWrite_unmapped v ha hm, hostRead_unmapped ha hm⟩

/-! ### Reset -/

/-- R900, R901: a reset that finds its vector. -/
theorem resetMachine_of_reads {s : State} {lo hi : Byte} {b b' : Bus} (hlo : s.bus.read resetVector = some (lo, b))
    (hhi : b.read (resetVector + 1) = some (hi, b')) :
    resetMachine s =
      .next { s.resetRegs with bus := b', regs := { Params.startRegs s.params with pc := word hi lo } } := by
  have hlo' : s.resetRegs.bus.read resetVector = some (lo, b) := hlo
  simp only [resetMachine, hlo', hhi]
  rfl

/-- R902: the vector's low byte is not mapped. -/
theorem resetMachine_low_unmapped {s : State} (h : s.bus.mapped resetVector = false) :
    resetMachine s = s.resetRegs.resetFault resetVector := by
  have hlo : s.resetRegs.bus.read resetVector = none := (Bus.read_none_iff _ _).mpr h
  simp only [resetMachine, hlo]

/-- R902: the vector's high byte is not mapped; the first read has happened. -/
theorem resetMachine_high_unmapped {s : State} {lo : Byte} {b : Bus} (hlo : s.bus.read resetVector = some (lo, b))
    (h : b.mapped (resetVector + 1) = false) :
    resetMachine s = State.resetFault { s.resetRegs with bus := b } (resetVector + 1) := by
  have hlo' : s.resetRegs.bus.read resetVector = some (lo, b) := hlo
  simp only [resetMachine, hlo', (Bus.read_none_iff _ _).mpr h]

/-- A reset whose vector is in RAM or ROM leaves PC at it, and every byte of memory as it was. -/
theorem resetMachine_of_peek {s : State} {lo hi : Byte} (hlo : s.bus.peek resetVector = some lo)
    (hhi : s.bus.peek (resetVector + 1) = some hi) :
    ∃ t, resetMachine s = .next t ∧ t.regs = { Params.startRegs s.params with pc := word hi lo } ∧
      t.params = s.params ∧ ∀ a, t.bus.peek a = s.bus.peek a := by
  obtain ⟨b, hread⟩ := Bus.read_of_peek hlo
  obtain ⟨b', hread'⟩ := Bus.read_of_peek ((Bus.read_peek hread _).trans hhi)
  exact ⟨_, resetMachine_of_reads hread hread', rfl, rfl, fun a =>
    (Bus.read_peek hread' a).trans (Bus.read_peek hread a)⟩

/-- Settles O57: the three ends of a reset, and two resets where memory holds the vector. -/
theorem resetState : Obligations.ResetState := by
  unfold Obligations.ResetState
  intro s start phase after
  have hphase : s.phase.afterReset = phase := by
    simp only [phase]
    cases s.phase <;> rfl
  refine ⟨?vector, ?low, ?high, ?twice⟩
  case vector =>
    intro lo hi b b' hlo hhi
    rw [resetMachine_of_reads hlo hhi, ← hphase]
    rfl
  case low =>
    intro h
    rw [resetMachine_low_unmapped h]
    rfl
  case high =>
    intro lo b hlo h
    rw [resetMachine_high_unmapped hlo h]
    rfl
  case twice =>
    intro lo hi hlo hhi
    obtain ⟨t, ht, hregs, hparams, hpeek⟩ := resetMachine_of_peek hlo hhi
    obtain ⟨u, hu, huregs, -, -⟩ := resetMachine_of_peek ((hpeek _).trans hlo) ((hpeek _).trans hhi)
    exact ⟨t, u, ht, hu, hregs, by rw [huregs, hregs, hparams]⟩

/-! ### Attach -/

/-- R203: an invalid range, by its three bounds. -/
theorem Range.wf_eq_false_iff (r : Range) :
    r.wf = false ↔ r.length = 0 ∨ 0x10000 < r.base.toNat + r.length ∨ 0x10000 < r.offset.toNat + r.length := by
  rw [← Bool.not_eq_true]
  simp only [Range.wf, Range.nonempty, Range.fitsSpace, Range.fitsLocal, Bool.and_eq_true, decide_eq_true_eq]
  omega

theorem attach_not_configuring {s : State} (h : s.phase ≠ .configuring) (r : Range) (target : AttachTarget) :
    attach s r target = .refused .notConfiguring := by
  unfold attach
  split
  · rfl
  · rfl
  · exact absurd ‹_› h

section Configuring

variable {s : State} {r : Range}

/-- R203: an invalid range, or one that overlaps an entry. -/
theorem attach_conflict (hs : s.phase = .configuring) (target : AttachTarget)
    (h : r.wf = false ∨ (overlapped s.bus.map r).isSome = true) :
    attach s r target = .fault (.rangeConflict r (overlapped s.bus.map r)) := by
  simp only [attach, hs, if_pos h]

/-- A valid range that its device declares is added; any other is a contract violation (log 9). -/
theorem attach_valid (hs : s.phase = .configuring) (target : AttachTarget) (hr : ¬ r.wf = false)
    (ho : ¬ (overlapped s.bus.map r).isSome = true) :
    attach s r target = if target.accepts s.bus.devices r then
      .next { s with bus := { s.bus with
        map := s.bus.map ++ [⟨r, (target.place s.bus.devices).2⟩], devices := (target.place s.bus.devices).1 } }
      else .refused .contractViolation := by
  simp only [attach, hs, if_neg (not_or.mpr ⟨hr, ho⟩)]

end Configuring

/-- What a device declares (20_memory.md R202; log 22). -/
def Device.Declares (d : Device) (r : Range) : Prop := d.wf = true ∧ r.offset.toNat + r.length ≤ d.size

theorem AttachTarget.accepts_new (d : Device) (devices : List Device) (r : Range) :
    (AttachTarget.new d).accepts devices r = true ↔ d.Declares r := by
  simp [AttachTarget.accepts, AttachTarget.place, Device.Declares]

theorem AttachTarget.accepts_existing (n : Nat) (devices : List Device) (r : Range) :
    (AttachTarget.existing n).accepts devices r = true ↔ ∃ d, devices[n]? = some d ∧ d.Declares r := by
  simp only [AttachTarget.accepts, AttachTarget.place]
  cases devices[n]? <;> simp [Device.Declares]

/-- Settles O58: `attach` by its cases, then the attaches of `build` one by one. -/
theorem attachConflicts : Obligations.AttachConflicts := by
  unfold Obligations.AttachConflicts
  refine ⟨?attach, fun p => ⟨rfl, rfl, fun entries r target => attachAll_snoc (construct p) entries r target⟩⟩
  case attach =>
    intro s r target overlaps invalid declared added
    have hinvalid : r.wf = false ↔ invalid := Range.wf_eq_false_iff r
    have hoverlap : (overlapped s.bus.map r).isSome = true ↔ ∃ e ∈ s.bus.map, overlaps e := by
      rw [overlapped_isSome]
      simp only [Range.overlaps_iff, overlaps]
    refine ⟨fun h => attach_not_configuring h r target, ?conflict, ?valid⟩
    case conflict =>
      intro hs h
      rw [← hinvalid, ← hoverlap] at h
      refine ⟨_, attach_conflict hs target h, fun x hx => ?_, fun hex => ?_⟩
      · obtain ⟨e, he, hrange, hov⟩ := overlapped_some hx
        exact ⟨e, he, hrange, (Range.overlaps_iff _ _).mp hov⟩
      · exact Option.isSome_iff_ne_none.mp (hoverlap.mpr hex)
    case valid =>
      intro hs hnot hno
      have hvalid := attach_valid hs target (hinvalid.not.mpr hnot) (hoverlap.not.mpr (by simpa using hno))
      refine ⟨?new, ?existing⟩
      case new =>
        rintro d rfl
        rw [hvalid]
        exact ⟨fun h => if_pos ((AttachTarget.accepts_new d _ r).mpr h),
          fun h => if_neg ((AttachTarget.accepts_new d _ r).not.mpr h)⟩
      case existing =>
        rintro n rfl
        rw [hvalid]
        refine ⟨fun d hd h => if_pos ((AttachTarget.accepts_existing n _ r).mpr ⟨d, hd, h⟩), fun h => if_neg ?_⟩
        rw [AttachTarget.accepts_existing]
        rintro ⟨d, hd, hdecl⟩
        exact h d hd hdecl

end Sys2Proof.Machine
end
